-- ==== Sys2Proof/Word.lean ====
section
/-! DEFINITION. The word types of the spec: bytes, the input pixel word PIX32, the color word RGB565, image coordinates. -/

namespace Sys2Proof

/-- One byte of `CBUF` or `MBUF`, one 8-bit channel, and the mask accumulator (rules R3, R10, R13, R14). -/
abbrev Byte := BitVec 8

/-- A color word in format RGB565 (rule R42). -/
abbrev Color := BitVec 16

/-- A pixel as it crosses the query port, format PIX32 (rule R41). -/
abbrev Pix32 := BitVec 32

/-- An image coordinate `(row, col)` (rule R23). -/
abbrev Coord := Nat × Nat

end Sys2Proof
end

