-- ==== Sys2Proof/Config.lean ====
section
/-! DEFINITION. What an implementation fixes, and the free values: constants without a body, of which nothing can be proved. -/

namespace Sys2Proof.Config

/-- The spec's default for the OPEN parameter DIM_BITS (rule R4, decision D3). It is only the value the parameter has
in the state after reset: the parameter is a field of the state, so that a statement about every state holds for every
DIM_BITS. DESIGN CHOICE, log entry 1. -/
def dimBits : Nat := 16

/-- FREE VALUE: the pixel word on `pix_data` when the environment holds no pixel for the coordinate queried
(U4, rules R74, R90), at the step with this index. Log entry 4. -/
opaque freePixel : Nat → Pix32

/-- FREE VALUE: the input `rst` of the step with this index, when nobody has scripted that step. Log entry 3. -/
opaque freeRst : Nat → Bool

/-- FREE VALUE: the input `start` of the step with this index, when nobody has scripted that step. Log entry 3. -/
opaque freeStart : Nat → Bool

/-- FREE VALUE: the input `width_in` of the step with this index, when nobody has scripted that step. Log entry 3. -/
opaque freeWidthIn : Nat → Nat

/-- FREE VALUE: the input `height_in` of the step with this index, when nobody has scripted that step. Log entry 3. -/
opaque freeHeightIn : Nat → Nat

/-- FREE VALUE: the output `col_data` in a step with `col_valid = 0`, which rule R91 leaves unspecified. Log entry 9. -/
opaque freeColData : Nat → Color

/-- FREE VALUE: the output `mask_data` in a step with `mask_valid = 0`, which rule R91 leaves unspecified.
Log entry 9. -/
opaque freeMaskData : Nat → Byte

end Sys2Proof.Config
end

