-- ==== Sys2Proof/Syntax.lean ====
section
/-! DEFINITION. The nine operations of the block (rule R50), one constructor for each row of the operation table. -/

namespace Sys2Proof

/-- The operations of rule R50, with the operands of rule R45: the inputs of a step that the operation reads, or the
arguments of a datapath function. Numbers carried by the DIM_BITS-wide inputs are naturals (00_scope.md section 4.1);
`Instr.wf` bounds them. -/
inductive Instr where
  /-- RESET (rule R85). -/
  | reset
  /-- CONVERT, also called START: the step that accepts a frame (rule R63). -/
  | convert (widthIn heightIn : Nat)
  /-- STEP, also written STEP.S when `start` is asserted with it: one pixel (rules R64, R68). -/
  | step (pixData : Pix32)
  /-- IDLE (rule R65). -/
  | idle
  /-- PACKCOLOR, the source's `packColor` (rule R51). -/
  | packcolor (p : Pix32)
  /-- SER16BE (rule R53). -/
  | ser16be (c : Color)
  /-- PACKMASKBIT, the source's `packMaskBit` (rule R56). -/
  | packmaskbit (p : Pix32)
  /-- PACKCHUNK on the bits of one chunk, leftmost pixel first (rule R57). -/
  | packchunk (bits : List Bool)
  /-- PACKROW on the bits of one row, in column order (rule R58). -/
  | packrow (bits : List Bool)
  deriving DecidableEq, Repr

end Sys2Proof
end

