-- ==== Sys2Proof/WellFormed.lean ====
section
/-! DEFINITION. Which terms of the syntax the block's ports and functions can carry. -/

namespace Sys2Proof

/-- A number fits an input of `n` bits (rule R45: "each `DIM_BITS` wide, plain unsigned numbers"). -/
def fitsPort (n v : Nat) : Bool := decide (v < 2 ^ n)

/-- The operand count of PACKCHUNK: `1 ≤ k ≤ 8` (rule R57). -/
def chunkLengthOk (bits : List Bool) : Bool := decide (1 ≤ bits.length ∧ bits.length ≤ 8)

/-- An operation the block can be asked for, at DIM_BITS = `n`: the dimensions fit their ports and a chunk has one to
eight bits. Every other operand value is legal (rule R47). -/
def Instr.wf (n : Nat) : Instr → Bool
  | .reset => true
  | .convert w h => fitsPort n w && fitsPort n h
  | .step _ => true
  | .idle => true
  | .packcolor _ => true
  | .ser16be _ => true
  | .packmaskbit _ => true
  | .packchunk bits => chunkLengthOk bits
  | .packrow _ => true

/-- The four step operations, which the control vector selects; the other five are datapath functions (rule R50). -/
def Instr.isStepOp : Instr → Bool
  | .reset => true
  | .convert _ _ => true
  | .step _ => true
  | .idle => true
  | .packcolor _ => false
  | .ser16be _ => false
  | .packmaskbit _ => false
  | .packchunk _ => false
  | .packrow _ => false

end Sys2Proof
end

