-- ==== Sys2Proof/Decode.lean ====
section
/-! DEFINITION. The control vector CTL3 and the inputs of a step (rule R45) decoded into an operation, and the encoder. -/

namespace Sys2Proof

/-- The signals that decide what one step does: the control vector `{rst, start, STATE}` and the operand inputs
(rules R20, R45). -/
structure StepWord where
  ctl : BitVec 3
  widthIn : Nat
  heightIn : Nat
  pixData : Pix32
  deriving DecidableEq, Repr

/-- `CTL3 = {rst, start, STATE}`: `rst` at bit 2, `start` at bit 1, the run flag at bit 0 (rule R45). -/
def ctl3 (rst start running : Bool) : BitVec 3 :=
  BitVec.ofBool rst ++ BitVec.ofBool start ++ BitVec.ofBool running

/-- The table of rule R45, read as the priority list of rule R76: `rst`, then the running frame, then `start`. It is
total: "Every one of the eight values is defined; the table is complete and has no reserved row." -/
def decode (w : StepWord) : Instr :=
  if w.ctl.getLsbD 2 then .reset
  else if w.ctl.getLsbD 0 then .step w.pixData
  else if w.ctl.getLsbD 1 then .convert w.widthIn w.heightIn
  else .idle

/-- How many words the wires of one step can carry at DIM_BITS = `n`: 3 control bits, two dimensions, 32 pixel bits. -/
def wordBound (n : Nat) : Nat := 8 * 2 ^ n * 2 ^ n * 2 ^ 32

/-- The wires of one step read out of one number: CTL3 at bits 2:0 as the operation table numbers it, and above it
`width_in`, `height_in` and `pix_data`, in the order in which rule R20 lists them. The order above bit 2 is the model's
(DESIGN CHOICE, log entry 8): the hardware has separate wires. -/
def StepWord.ofBits (n w : Nat) : StepWord where
  ctl := BitVec.ofNat 3 w
  widthIn := w / 8 % 2 ^ n
  heightIn := w / 8 / 2 ^ n % 2 ^ n
  pixData := BitVec.ofNat 32 (w / 8 / 2 ^ n / 2 ^ n)

/-- The number that `StepWord.ofBits` reads these wires out of. -/
def StepWord.toBits (n : Nat) (s : StepWord) : Nat :=
  s.ctl.toNat + 8 * (s.widthIn + 2 ^ n * (s.heightIn + 2 ^ n * s.pixData.toNat))

/-- Why a number is no step of the block. -/
inductive Reject where
  /-- It has a 1 above the last wire. -/
  | noSuchWire
  deriving DecidableEq, Repr

/-- The decoder on any number of any size: it rejects, by name, only a bit for which there is no wire (rule R47: no
encoding is illegal or reserved). -/
def decodeBits (n w : Nat) : Except Reject Instr :=
  if w < wordBound n then .ok (decode (StepWord.ofBits n w)) else .error .noSuchWire

/-- The wires that ask for an operation: for RESET the row `100`, for STEP the row `001`, inputs that the operation
ignores at 0; none for the datapath functions, which no control bits select (rules R45, R50). -/
def encodeWord : Instr → Option StepWord
  | .reset => some ⟨0b100#3, 0, 0, 0⟩
  | .convert w h => some ⟨0b010#3, w, h, 0⟩
  | .step p => some ⟨0b001#3, 0, 0, p⟩
  | .idle => some ⟨0b000#3, 0, 0, 0⟩
  | .packcolor _ => none
  | .ser16be _ => none
  | .packmaskbit _ => none
  | .packchunk _ => none
  | .packrow _ => none

/-- The encoder: the number whose bits are the operation's wires at DIM_BITS = `n`. -/
def encode (n : Nat) (i : Instr) : Option Nat := (encodeWord i).map (StepWord.toBits n)

/-- The operation the decoder reads from the operation table's bits: CTL3 in the low bits, every operand wire above
`nbits` at 0, at the default DIM_BITS. -/
def decodeTableWord (nbits w : Nat) : Option Instr :=
  match decodeBits Config.dimBits (w % 2 ^ nbits) with
  | .ok i => some i
  | .error _ => none

end Sys2Proof
end

