-- ==== Sys2Proof/Machine/State.lean ====
section
/-! DEFINITION. The state of the block and of what the environment holds for it, its reset value, and the reasons a step can stop. -/

namespace Sys2Proof.Machine

/-- The run flag `STATE` (rule R11): `IDLE` = 0, no frame in progress; `RUN` = 1, a frame in progress. -/
inductive RunState where
  | idle
  | run
  deriving DecidableEq, Repr

/-- The input image IMG (rules R22, R23): the pixels the image source holds, keyed by coordinate, in canonical form
(`imgWf`: coordinates strictly rising in row-major order). A coordinate not listed is one the source has no answer for. -/
abbrev Image := List (Coord × Pix32)

/-- What the environment presents to one step (rule R20): the control inputs, the dimension inputs, and, where it
declares one before the step (the `.image` directive of rule R49), the image its source answers from. -/
structure Inputs where
  rst : Bool
  start : Bool
  widthIn : Nat
  heightIn : Nat
  image : Option Image
  deriving DecidableEq, Repr

/-- The output of a datapath function invoked by itself (rules R50, R51, R53, R56, R57, R58). -/
inductive Result where
  | none
  | color (c : Color)
  | bytes (bs : List Byte)
  | bit (m : Bool)
  | maskByte (b : Byte)
  | maskRow (bs : List Byte)
  deriving DecidableEq, Repr

/-- The nine pieces of state of rule R7, under the spec's names in lower case, then the parameter DIM_BITS (rule R4),
then what the MODEL holds for the environment: the image source's image, the inputs of the coming steps, a counter of
steps that only indexes free values, and the output of the datapath function invoked last. -/
structure State where
  width : Nat
  height : Nat
  x : Nat
  y : Nat
  macc : Byte
  state : RunState
  done : Bool
  cbuf : List Byte
  mbuf : List Byte
  dimBits : Nat
  img : Image
  script : List Inputs
  tick : Nat
  result : Result
  deriving DecidableEq, Repr

/-- The state after RESET (rule R19), at the default DIM_BITS (rule R4), with no image, no inputs and no datapath
output presented yet (log entries 1, 2, 3, 6). -/
def State.reset : State where
  width := 0
  height := 0
  x := 0
  y := 0
  macc := 0
  state := .idle
  done := false
  cbuf := []
  mbuf := []
  dimBits := Config.dimBits
  img := []
  script := []
  tick := 0
  result := .none

/-- The faults of the machine: none. "The set of exception causes is empty" (rule R73), so the type has no
constructor, nothing raises one, and that is neither safe nor unsafe: it is the rule. -/
inductive Fault where
  deriving DecidableEq, Repr

/-- Why an operation has no meaning. -/
inductive Refusal where
  /-- An arm of `exec` whose operation has no meaning yet; no arm is left so. Safe. -/
  | notModelled (mnemonic : String)
  /-- Raised by PACKCHUNK when it is given no bit or more than eight, which is outside its domain `1 ≤ k ≤ 8`
  (rule R57). Safe: the model stops where the spec gives no value (log entry 7). -/
  | chunkLength (k : Nat)
  deriving DecidableEq, Repr

/-- The outcome of one operation or one step. -/
abbrev Out := Host.Outcome State Fault Refusal

end Sys2Proof.Machine
end

