-- ==== Sys2Proof/Machine/Operands.lean ====
section
/-! DEFINITION. The operand formats: the four channels of a pixel word (rule R41) and the dimension inputs (rule R45). -/

namespace Sys2Proof.Machine

/-- `r = p[31:24]` (rule R41). -/
def red (p : Pix32) : Byte := p.extractLsb' 24 8

/-- `g = p[23:16]` (rule R41). -/
def green (p : Pix32) : Byte := p.extractLsb' 16 8

/-- `b = p[15:8]` (rule R41). -/
def blue (p : Pix32) : Byte := p.extractLsb' 8 8

/-- `a = p[7:0]` (rule R41). -/
def alpha (p : Pix32) : Byte := p.extractLsb' 0 8

/-- The pixel word `{r, g, b, a}` (rule R41), with `{a, b} = a * 2^M + b` (00_scope.md section 4.1). -/
def pix32 (r g b a : Byte) : Pix32 :=
  BitVec.ofNat 32 (((r.toNat * 2 ^ 8 + g.toNat) * 2 ^ 8 + b.toNat) * 2 ^ 8 + a.toNat)

/-- What a register, counter or input of `n` bits holds of a number (00_scope.md section 4.1). -/
def fit (n v : Nat) : Nat := v % 2 ^ n

/-- The stride `S = ceil(w/8) = (w + 7) div 8` (rule R27). -/
def stride (w : Nat) : Nat := (w + 7) / 8

end Sys2Proof.Machine
end

