-- ==== Sys2Proof/Machine/Color.lean ====
section
/-! DEFINITION. The color packer: packColor, ser16be and the checking function unpack565, and the operations PACKCOLOR and SER16BE (40_packcolor.md). -/

namespace Sys2Proof.Machine

/-- `packColor(r, g, b, a)` of rule R51; the alpha channel is an operand without effect (rule R55). -/
def packColor (r g b _a : Byte) : Color :=
  ((r >>> 3).zeroExtend 16 <<< 11) ||| ((g >>> 2).zeroExtend 16 <<< 5) ||| (b >>> 3).zeroExtend 16

/-- PACKCOLOR on a pixel word (rules R46, R51). -/
def packPixel (p : Pix32) : Color := packColor (red p) (green p) (blue p) (alpha p)

/-- The red field `c[15:11]` (rule R42). -/
def red5 (c : Color) : BitVec 5 := c.extractLsb' 11 5

/-- The green field `c[10:5]` (rule R42). -/
def green6 (c : Color) : BitVec 6 := c.extractLsb' 5 6

/-- The blue field `c[4:0]` (rule R42). -/
def blue5 (c : Color) : BitVec 5 := c.extractLsb' 0 5

/-- `ser16be(c)` of rule R53: the more significant byte first. -/
def ser16be (c : Color) : List Byte := [c.extractLsb' 8 8, c.extractLsb' 0 8]

/-- `unpack565(c)` of rule R54, a checking function and not an operation of the block. -/
def unpack565 (c : Color) : Byte × Byte × Byte :=
  ((red5 c).zeroExtend 8 <<< 3, (green6 c).zeroExtend 8 <<< 2, (blue5 c).zeroExtend 8 <<< 3)

/-- PACKCOLOR (rule R51): it reads no state and writes none; the color word is its output. -/
def execPackcolor (p : Pix32) (s : State) : Out := .next { s with result := .color (packPixel p) }

/-- SER16BE (rule R53): it reads no state and writes none; the two bytes are its output. -/
def execSer16be (c : Color) (s : State) : Out := .next { s with result := .bytes (ser16be c) }

end Sys2Proof.Machine
end

