-- ==== Sys2Proof/Machine/Flags.lean ====
section
/-! DEFINITION. The two flags STATE and DONE (rules R11, R12) and the conditions a STEP tests (rule R64). -/

namespace Sys2Proof.Machine

/-- `lastcol = (X = WIDTH - 1)` of rule R64, over the integers: never true of a width of 0. -/
def lastCol (s : State) : Bool := decide (s.x + 1 = s.width)

/-- `Y = HEIGHT - 1` of rule R64, over the integers. -/
def lastRow (s : State) : Bool := decide (s.y + 1 = s.height)

/-- `(X mod 8 = 7) or lastcol`: this STEP completes a chunk (rules R27, R64). -/
def chunkEnd (s : State) : Bool := decide (s.x % 8 = 7) || lastCol s

/-- This STEP processes the last pixel `(HEIGHT - 1, WIDTH - 1)` of the frame (rules R11, R64). -/
def lastPixel (s : State) : Bool := lastCol s && lastRow s

/-- A frame of these dimensions has no pixel (rules R62, R63). -/
def degenerate (w h : Nat) : Bool := decide (w = 0) || decide (h = 0)

/-- `STATE` after an accepted START (rules R11, R63). -/
def startState (w h : Nat) : RunState := if degenerate w h then .idle else .run

/-- `DONE` after an accepted START (rules R12, R63). -/
def startDone (w h : Nat) : Bool := degenerate w h

/-- `STATE` after a STEP (rules R11, R64). -/
def stepState (s : State) : RunState := if lastPixel s then .idle else s.state

/-- `DONE` after a STEP (rules R12, R64). -/
def stepDone (s : State) : Bool := if lastPixel s then true else s.done

/-- The output `busy` and the bit STATE of the control vector: 1 exactly when `STATE = RUN` (rule R11). -/
def busy (s : State) : Bool := decide (s.state = .run)

end Sys2Proof.Machine
end

