-- ==== Sys2Proof/Machine/Mask.lean ====
section
/-! DEFINITION. The mask encoder: packMaskBit, packChunk, packRow, and the operations PACKMASKBIT, PACKCHUNK and PACKROW (41_packmask.md). -/

namespace Sys2Proof.Machine

/-- `packMaskBit(r, g, b, a)` of rule R56: 1 exactly when alpha is not 0. -/
def packMaskBit (_r _g _b a : Byte) : Bool := a != 0

/-- PACKMASKBIT on a pixel word (rules R46, R56). -/
def maskBit (p : Pix32) : Bool := packMaskBit (red p) (green p) (blue p) (alpha p)

/-- `zext_8(m) << (7 - j)`: the bit of the chunk's pixel `j` at its final place (rules R44, R57, R64). -/
def placeBit (m : Bool) (j : Nat) : Byte := (BitVec.ofBool m).zeroExtend 8 <<< (7 - j)

/-- The loop of rule R57 from pixel `j` of the chunk on. -/
def packChunkFrom (j : Nat) : List Bool → Byte
  | [] => 0
  | m :: ms => placeBit m j ||| packChunkFrom (j + 1) ms

/-- `packChunk(m_0, ..., m_{k-1})` of rule R57, for `1 ≤ k ≤ 8`. -/
def packChunk (bits : List Bool) : Byte := packChunkFrom 0 bits

/-- The bits of columns `8j` to `min(8j + 7, w - 1)`: chunk `j` of a row (rule R58). -/
def chunk (bits : List Bool) (j : Nat) : List Bool := (bits.drop (8 * j)).take 8

/-- `packRow(m_0, ..., m_{w-1})` of rule R58: one byte for each of the `(w + 7) div 8` chunks. -/
def packRow (bits : List Bool) : List Byte :=
  (List.range (stride bits.length)).map fun j => packChunk (chunk bits j)

/-- PACKMASKBIT (rule R56): it reads no state and writes none; the bit is its output. -/
def execPackmaskbit (p : Pix32) (s : State) : Out := .next { s with result := .bit (maskBit p) }

/-- PACKCHUNK (rule R57): a pure function of one to eight bits; the byte is its output. Any other count of bits is
outside its domain and is refused by name (log entry 7). -/
def execPackchunk (bits : List Bool) (s : State) : Out :=
  if chunkLengthOk bits then .next { s with result := .maskByte (packChunk bits) }
  else .refused (.chunkLength bits.length)

/-- PACKROW (rule R58): a pure function of a row of bits; the bytes are its output. -/
def execPackrow (bits : List Bool) (s : State) : Out := .next { s with result := .maskRow (packRow bits) }

end Sys2Proof.Machine
end

