-- ==== Sys2Proof/Machine/Ops.lean ====
section
/-! DEFINITION. The named operations over the data spaces and registers: the image source, the sampling of the inputs, the appends, the scan position. -/

namespace Sys2Proof.Machine

/-- Row-major order of coordinates: by row, then by column (rule R23). -/
def coordLt (a b : Coord) : Bool := decide (a.1 < b.1) || (decide (a.1 = b.1) && decide (a.2 < b.2))

/-- The pixel an image holds at a coordinate, if it holds one (rules R23, R24). -/
def imgGet : Image → Coord → Option Pix32
  | [], _ => none
  | (k, p) :: rest, c => if k = c then some p else imgGet rest c

/-- The image with one pixel put at a coordinate, in canonical form again. The block never does this (rule R15); the
environment does. -/
def imgSet : Image → Coord → Pix32 → Image
  | [], c, p => [(c, p)]
  | (k, q) :: rest, c, p =>
    if k = c then (c, p) :: rest
    else if coordLt c k then (c, p) :: (k, q) :: rest
    else (k, q) :: imgSet rest c p

/-- The canonical form of an image: coordinates strictly rising in row-major order. -/
abbrev imgWf (im : Image) : Prop := im.Pairwise fun a b => coordLt a.1 b.1 = true

/-- The inputs sampled by the coming step (rule R20): the first scripted ones, or, where nobody has scripted the step,
free values (log entry 3). -/
def sample (s : State) : Inputs :=
  match s.script with
  | i :: _ => i
  | [] => ⟨Config.freeRst s.tick, Config.freeStart s.tick, Config.freeWidthIn s.tick, Config.freeHeightIn s.tick, none⟩

/-- The image that the image source answers the coming step's query from: the one the environment declares before the
step, else the one it held (rules R15, R49, R90). -/
def sourceImage (s : State) : Image := ((sample s).image).getD s.img

/-- `PixRead(row, col)` as the coming step would be answered (rule R24): the image's pixel, or, where the source has no
pixel there, a free value (U4, log entry 4). -/
def pixRead (s : State) (row col : Nat) : Pix32 := (imgGet (sourceImage s) (row, col)).getD (Config.freePixel s.tick)

/-- `pix_data` in the coming step: the answer to the query `(pix_row, pix_col) = (Y, X)` (rules R20, R24). -/
def pixData (s : State) : Pix32 := pixRead s s.y s.x

/-- The wires of the coming step: the control vector with `STATE` from before the step, the dimension inputs as their
DIM_BITS-wide ports carry them (log entry 5), and the pixel data (rules R20, R45). -/
def stepWord (s : State) : StepWord where
  ctl := ctl3 (sample s).rst (sample s).start (busy s)
  widthIn := fit s.dimBits (sample s).widthIn
  heightIn := fit s.dimBits (sample s).heightIn
  pixData := pixData s

/-- What sampling the inputs of a step does to the environment's fields: the step's scripted inputs are used up, the
image source answers from the image presented with them, and the count of steps rises. The block's own state is as it
was. -/
def sampled (s : State) : State :=
  { s with img := sourceImage s, script := s.script.tail, tick := s.tick + 1 }

/-- `ColorAppend(c[15:8], c[7:0])` (rule R25). -/
def colorAppend (c : Color) (s : State) : State := { s with cbuf := s.cbuf ++ ser16be c }

/-- `MaskAppend(b)` (rule R27). -/
def maskAppend (b : Byte) (s : State) : State := { s with mbuf := s.mbuf ++ [b] }

/-- The byte of `CBUF` at an offset (rules R22, R25). -/
def readColor (s : State) (offset : Nat) : Option Byte := s.cbuf[offset]?

/-- The byte of `MBUF` at an offset (rules R22, R27). -/
def readMask (s : State) (offset : Nat) : Option Byte := s.mbuf[offset]?

/-- `acc` of rule R64: the accumulator with the pixel's mask bit at its place, bit `7 - (X mod 8)`. -/
def mergeBit (p : Pix32) (s : State) : Byte := s.macc ||| placeBit (maskBit p) (s.x % 8)

/-- The mask half of a STEP (rule R64): at a chunk end the byte is appended and the accumulator cleared, else the
accumulator keeps it. -/
def maskStep (p : Pix32) (s : State) : State :=
  if chunkEnd s then { maskAppend (mergeBit p s) s with macc := 0 } else { s with macc := mergeBit p s }

/-- The next column of the scan (rules R64, R66), in a counter of DIM_BITS bits. -/
def nextX (s : State) : Nat := if lastCol s then 0 else fit s.dimBits (s.x + 1)

/-- The next row of the scan (rules R64, R66), in a counter of DIM_BITS bits. -/
def nextY (s : State) : Nat :=
  if lastCol s then (if lastRow s then 0 else fit s.dimBits (s.y + 1)) else s.y

/-- The end of a STEP (rules R64, R66): the scan position moves on; at the last pixel the frame ends. -/
def advanceScan (s : State) : State :=
  { s with x := nextX s, y := nextY s, state := stepState s, done := stepDone s }

/-- What RESET and START both do: the scan position at the top-left pixel, accumulator and output sequences empty
(rules R63, R85). -/
def clearFrame (s : State) : State := { s with x := 0, y := 0, macc := 0, cbuf := [], mbuf := [] }

/-- The environment and the run flag set so that the coming step samples exactly these wires: one line of script that
drives the control and dimension inputs, `STATE` as bit 0 of the control vector says, and, where the step queries a
pixel, that pixel at the scan position (log entry 11). -/
def placeWord (w : StepWord) (s : State) : State :=
  { s with
    state := if w.ctl.getLsbD 0 then .run else .idle
    script := ⟨w.ctl.getLsbD 2, w.ctl.getLsbD 1, w.widthIn, w.heightIn, none⟩ :: s.script
    img := if w.ctl.getLsbD 0 then imgSet s.img (s.y, s.x) w.pixData else s.img }

end Sys2Proof.Machine
end

