-- ==== Sys2Proof/Machine/Control.lean ====
section
/-! DEFINITION. The step operations RESET (rule R85), CONVERT or START (rule R63) and IDLE (rule R65). -/

namespace Sys2Proof.Machine

/-- RESET (rule R85): every piece of the block's state to its value of rule R19, whatever it was. -/
def execReset (s : State) : Out :=
  .next { clearFrame s with width := 0, height := 0, state := .idle, done := false }

/-- START (rule R63) with the dimensions on the ports: they are loaded, the frame is cleared, and a frame without pixels
is complete at once (rule R62). -/
def startFrame (w h : Nat) (s : State) : State :=
  { clearFrame s with width := w, height := h, state := startState w h, done := startDone w h }

/-- CONVERT (START), the step that accepts a frame (rule R63). The ports are DIM_BITS wide. -/
def execConvert (widthIn heightIn : Nat) (s : State) : Out :=
  .next (startFrame (fit s.dimBits widthIn) (fit s.dimBits heightIn) s)

/-- IDLE (rule R65): no state changes. -/
def execIdle (s : State) : Out := .next s

end Sys2Proof.Machine
end

