-- ==== Sys2Proof/Machine/Pixel.lean ====
section
/-! DEFINITION. The step operation STEP: one pixel (rules R64, R66, R68). -/

namespace Sys2Proof.Machine

/-- STEP (rule R64) on the pixel word `p = PixRead(Y, X)`: the color bytes are appended, the mask bit is merged and the
mask byte appended at a chunk end, and the scan position moves on. Whether a step is a STEP is decided by the control
vector (rule R45), so the operation itself tests no run flag (log entry 15). -/
def execStep (p : Pix32) (s : State) : Out :=
  .next (advanceScan (maskStep p (colorAppend (packPixel p) s)))

end Sys2Proof.Machine
end

