-- ==== Sys2Proof/Machine/Dispatch.lean ====
section
/-! DEFINITION. exec: one arm for each operation of the table. -/

namespace Sys2Proof.Machine

def exec (i : Instr) (s : State) : Host.Outcome State Fault Refusal :=
  match i with
  | .reset => Sys2Proof.Machine.execReset s
  | .convert widthIn heightIn => Sys2Proof.Machine.execConvert widthIn heightIn s
  | .step pixData => Sys2Proof.Machine.execStep pixData s
  | .idle => Sys2Proof.Machine.execIdle s
  | .packcolor p => Sys2Proof.Machine.execPackcolor p s
  | .ser16be c => Sys2Proof.Machine.execSer16be c s
  | .packmaskbit p => Sys2Proof.Machine.execPackmaskbit p s
  | .packchunk bits => Sys2Proof.Machine.execPackchunk bits s
  | .packrow bits => Sys2Proof.Machine.execPackrow bits s

end Sys2Proof.Machine
end

