-- ==== Sys2Proof/Machine/Step.lean ====
section
/-! DEFINITION. One step of the block: sample the inputs, decode the control vector, perform the operation. -/

namespace Sys2Proof.Machine

/-- One step (42_convert.md section 2): the operation that `CTL3 = {rst, start, STATE}` selects (rule R45), on the
state whose environment has presented the step's inputs. -/
def step (s : State) : Host.Outcome State Fault Refusal := exec (decode (stepWord s)) (sampled s)

/-- `s` with the wires of the table's word placed where the coming step samples them; operand wires above `nbits` are 0
(log entry 11). -/
def State.withFetchWord (s : State) (nbits w : Nat) : State :=
  placeWord (StepWord.ofBits s.dimBits (w % 2 ^ nbits)) s

end Sys2Proof.Machine
end

