-- ==== Sys2Proof/Machine/Frame.lean ====
section
/-! DEFINITION. convert as a function of the image (42_convert.md section 1), "the definition of what a frame must produce" (rule R60). -/

namespace Sys2Proof.Machine

/-- An image as a function of the coordinate (rules R5, R15). -/
abbrev ImageFn := Nat → Nat → Pix32

/-- The mask bits of the first `w` columns of one row, in column order (rule R60). -/
def rowBits (img : ImageFn) (w row : Nat) : List Bool := (List.range w).map fun col => maskBit (img row col)

/-- The color bytes of one row (rule R60). -/
def rowColors (img : ImageFn) (w row : Nat) : List Byte :=
  (List.range w).flatMap fun col => ser16be (packPixel (img row col))

/-- `CB` of rule R60. -/
def colorBuffer (w h : Nat) (img : ImageFn) : List Byte := (List.range h).flatMap fun row => rowColors img w row

/-- `MB` of rule R60. -/
def maskBuffer (w h : Nat) (img : ImageFn) : List Byte := (List.range h).flatMap fun row => packRow (rowBits img w row)

/-- `convert(W, H, img)` of rule R60. -/
def convert (w h : Nat) (img : ImageFn) : List Byte × List Byte := (colorBuffer w h img, maskBuffer w h img)

end Sys2Proof.Machine
end

