-- ==== Sys2Proof/Machine/Ports.lean ====
section
/-! DEFINITION. The output signals of the block in the coming step (rule R21): functions of the state before the step and of pix_data, not state. -/

namespace Sys2Proof.Machine

/-- The outputs of rule R21. -/
structure Ports where
  busy : Bool
  done : Bool
  pixReq : Bool
  pixRow : Nat
  pixCol : Nat
  colValid : Bool
  colData : Color
  maskValid : Bool
  maskData : Byte
  deriving DecidableEq, Repr

/-- The coming step is a STEP: `rst = 0` and `STATE = RUN` (rules R21, R45). -/
def colValid (s : State) : Bool := !(sample s).rst && busy s

/-- The coming step is a STEP that completes a chunk (rule R21). -/
def maskValid (s : State) : Bool := colValid s && chunkEnd s

/-- The outputs in the coming step (rule R21). `col_data` and `mask_data` are unspecified where they are not marked
valid (rule R91): free values (log entry 9). -/
def ports (s : State) : Ports where
  busy := busy s
  done := s.done
  pixReq := busy s
  pixRow := s.y
  pixCol := s.x
  colValid := colValid s
  colData := if colValid s then packPixel (pixData s) else Config.freeColData s.tick
  maskValid := maskValid s
  maskData := if maskValid s then mergeBit (pixData s) s else Config.freeMaskData s.tick

end Sys2Proof.Machine
end

