-- ==== Sys2Proof/Machine/Script.lean ====
section
/-! DEFINITION. The script notation for runs of the block (rule R49): its lines, where each is legal, the inputs each stands for, and the pseudo-operations. -/

namespace Sys2Proof.Machine

/-- The lines of a script (rule R49), one for each step; `RESET` with `start` either way, `STEP.S w h` the STEP whose
`start` request is ignored. -/
inductive ScriptLine where
  | reset (start : Bool)
  | convert (w h : Nat)
  | step
  | stepS (w h : Nat)
  | idle
  deriving DecidableEq, Repr

/-- The inputs of the step a line stands for (rule R49). Inputs that the line does not name are 0, and the pixel of a
STEP is what the image source answers. -/
def ScriptLine.inputs : ScriptLine → Inputs
  | .reset start => ⟨true, start, 0, 0, none⟩
  | .convert w h => ⟨false, true, w, h, none⟩
  | .step => ⟨false, false, 0, 0, none⟩
  | .stepS w h => ⟨false, true, w, h, none⟩
  | .idle => ⟨false, false, 0, 0, none⟩

/-- The state in which a line is legal (rule R49); a line that is not is "an error of the script, not an input the
hardware can receive". -/
def ScriptLine.legal (s : State) : ScriptLine → Bool
  | .reset _ => true
  | .convert _ _ => !busy s
  | .step => busy s
  | .stepS _ _ => busy s
  | .idle => !busy s

/-- The directive `.image` (rule R49): the image is declared with the line that follows it; it is no step. -/
def withImage (im : Image) (i : Inputs) : Inputs := { i with image := some im }

/-- `STEP * n` and `IDLE * n`: a line repeated (rule R49). -/
def repeatLine (n : Nat) (l : ScriptLine) : List Inputs := List.replicate n l.inputs

/-- How many STEPs are left of a running frame: the linear index rises by 1 at each and the frame ends at index
`WIDTH * HEIGHT - 1` (rule R66); none in IDLE. -/
def stepsLeft (s : State) : Nat := if busy s then s.width * s.height - (s.y * s.width + s.x) else 0

/-- `RUN`: `STEP` repeated until `STATE = IDLE`; in IDLE it is no line (rule R49). -/
def runLines (s : State) : List Inputs := repeatLine (stepsLeft s) .step

/-- `FRAME w h`: `CONVERT w h` then `RUN`, `1 + w*h` steps (rules R49, R70). -/
def frameLines (w h : Nat) : List Inputs := (ScriptLine.convert w h).inputs :: repeatLine (w * h) .step

end Sys2Proof.Machine
end

