-- ==== Sys2Proof/Safety.lean ====
section
/-! DEFINITION. What claims about runs are stated in: the invariant of rule R17, and the contract the host keeps (rules R88 to R90). -/

namespace Sys2Proof.Safety

open Sys2Proof.Machine

/-- The registers hold what DIM_BITS bits can hold, and DIM_BITS is at least 1 (rules R4, R7, R8, R9). -/
abbrev Fits (s : State) : Prop :=
  1 ≤ s.dimBits ∧ s.width < 2 ^ s.dimBits ∧ s.height < 2 ^ s.dimBits ∧ s.x < 2 ^ s.dimBits ∧ s.y < 2 ^ s.dimBits

/-- Rule R17(a). -/
abbrev IdleAtOrigin (s : State) : Prop := s.state = .idle → s.x = 0 ∧ s.y = 0 ∧ s.macc = 0

/-- Rule R17(b). -/
abbrev ScanInside (s : State) : Prop :=
  s.state = .run → 1 ≤ s.width ∧ 1 ≤ s.height ∧ s.x < s.width ∧ s.y < s.height ∧ s.done = false

/-- Rule R17(c). -/
abbrev PaddingClear (s : State) : Prop := s.state = .run → s.macc.toNat % 2 ^ (8 - s.x % 8) = 0

/-- Rule R17(d). -/
abbrev RunLengths (s : State) : Prop :=
  s.state = .run →
    s.cbuf.length = 2 * (s.y * s.width + s.x) ∧ s.mbuf.length = s.y * stride s.width + s.x / 8

/-- Rule R17(e). -/
abbrev DoneLengths (s : State) : Prop :=
  s.state = .idle → s.done = true →
    s.cbuf.length = 2 * s.width * s.height ∧ s.mbuf.length = s.height * stride s.width

/-- Rule R17(f). -/
abbrev FreshEmpty (s : State) : Prop := s.state = .idle → s.done = false → s.cbuf = [] ∧ s.mbuf = []

/-- The invariant of the block's state: rule R17 (a) to (f), and the widths of the registers. -/
abbrev StateRules (s : State) : Prop :=
  Fits s ∧ IdleAtOrigin s ∧ ScanInside s ∧ PaddingClear s ∧ RunLengths s ∧ DoneLengths s ∧ FreshEmpty s

/-- The images the environment holds, now and in its script, are in canonical form. -/
def ImagesWf (s : State) : Prop := imgWf s.img ∧ ∀ i ∈ s.script, ∀ im, i.image = some im → imgWf im

/-- The host has scripted a START of a frame of these dimensions as the coming step, on an idle block (rules R63, R88):
`rst = 0`, `start = 1`, the dimensions on ports that can carry them. -/
def StartsFrame (s : State) (w h : Nat) : Prop :=
  s.state = .idle ∧ fitsPort s.dimBits w = true ∧ fitsPort s.dimBits h = true ∧
    ∃ im, s.script.head? = some ⟨false, true, w, h, im⟩

/-- After the coming step the host scripts `n` steps without RESET and without declaring another image: the premise of
rule R67 ("followed by steps with `rst = 0`") with the stable image of rule R90. What it puts on `start` and on the
dimension inputs is free. -/
def QuietFor (s : State) (n : Nat) : Prop :=
  n ≤ s.script.tail.length ∧ ∀ i ∈ s.script.tail.take n, i.rst = false ∧ i.image = none

/-- The image source answers every query of a frame of these dimensions from one image (rules R5, R90). -/
def Answers (s : State) (w h : Nat) (img : ImageFn) : Prop :=
  ∀ row col, row < h → col < w → imgGet (sourceImage s) (row, col) = some (img row col)

/-- A frame whose image source keeps the contract, about to be accepted (rule R67's premises). -/
def FrameAhead (s : State) (w h : Nat) (img : ImageFn) : Prop :=
  StartsFrame s w h ∧ QuietFor s (w * h) ∧ Answers s w h img

/-- The mask bits of the chunk in progress at scan position `(row, col)`: columns `col - (col mod 8)` to `col - 1`
(rules R10, R67). -/
def chunkSoFar (img : ImageFn) (row col : Nat) : List Bool :=
  (List.range (col % 8)).map fun j => maskBit (img row (col - col % 8 + j))

/-- The block in the middle of a frame, after `n` of its STEPs (rule R67). -/
abbrev MidFrame (t : State) (w h : Nat) (img : ImageFn) (n : Nat) : Prop :=
  t.state = .run ∧ t.done = false ∧ t.width = w ∧ t.height = h ∧ t.y = n / w ∧ t.x = n % w ∧
    t.cbuf = (colorBuffer w h img).take (2 * n) ∧
    t.mbuf = (maskBuffer w h img).take (t.y * stride w + t.x / 8) ∧
    t.macc = packChunk (chunkSoFar img t.y t.x)

/-- The block at the end of a frame (rules R67, R71). -/
abbrev FrameDone (t : State) (w h : Nat) (img : ImageFn) : Prop :=
  t.state = .idle ∧ t.done = true ∧ t.width = w ∧ t.height = h ∧ t.x = 0 ∧ t.y = 0 ∧ t.macc = 0 ∧
    (t.cbuf, t.mbuf) = convert w h img

/-- The parameter and the fields the model holds for the environment (its own choice, log entries 1, 2, 3 and
12) are the same in both states. -/
abbrev SameEnvironment (s t : State) : Prop :=
  t.dimBits = s.dimBits ∧ t.img = s.img ∧ t.script = s.script ∧ t.tick = s.tick

/-- The nine pieces of state of rule R7 are the same in both states. -/
abbrev SameBlock (s t : State) : Prop :=
  t.width = s.width ∧ t.height = s.height ∧ t.x = s.x ∧ t.y = s.y ∧ t.macc = s.macc ∧ t.state = s.state ∧
    t.done = s.done ∧ t.cbuf = s.cbuf ∧ t.mbuf = s.mbuf

/-- The nine pieces of state have their values of rule R19. -/
abbrev ResetValues (t : State) : Prop :=
  t.width = 0 ∧ t.height = 0 ∧ t.x = 0 ∧ t.y = 0 ∧ t.macc = 0 ∧ t.state = .idle ∧ t.done = false ∧ t.cbuf = [] ∧
    t.mbuf = []

end Sys2Proof.Safety
end

