-- ==== Sys2Proof/Certificates/Slice0/Obligations.lean ====
section
/-! DEFINITION. The statements for the provers, each from the numbered rules of spec/. -/

open Sys2Proof Sys2Proof.Machine Sys2Proof.Safety

/-! ### What a step performs -/

/-- Rules R45 and R76: the control vector `{rst, start, STATE}` selects the operation, `rst` first, then the running
frame, then `start`; the four match and mask patterns are those of the table, are disjoint and cover all eight values;
the operands are the other inputs, each dimension DIM_BITS wide. -/
def Obligations.ControlVectorSelectsTheOperation : Prop :=
  (∀ rst start running : Bool,
    (ctl3 rst start running).toNat = 4 * rst.toNat + 2 * start.toNat + running.toNat) ∧
  (∀ w : StepWord,
    (w.ctl &&& 0b100#3 = 0b100#3 ↔ decode w = .reset) ∧
    (w.ctl &&& 0b111#3 = 0b010#3 ↔ decode w = .convert w.widthIn w.heightIn) ∧
    (w.ctl &&& 0b101#3 = 0b001#3 ↔ decode w = .step w.pixData) ∧
    (w.ctl &&& 0b111#3 = 0b000#3 ↔ decode w = .idle) ∧
    (decode w = .reset ∨ decode w = .convert w.widthIn w.heightIn ∨ decode w = .step w.pixData ∨
      decode w = .idle)) ∧
  (∀ s : State,
    ((sample s).rst = true → step s = exec .reset (sampled s)) ∧
    ((sample s).rst = false → s.state = .run → step s = exec (.step (pixData s)) (sampled s)) ∧
    ((sample s).rst = false → s.state = .idle → (sample s).start = true →
      step s = exec (.convert ((sample s).widthIn % 2 ^ s.dimBits) ((sample s).heightIn % 2 ^ s.dimBits)) (sampled s)) ∧
    ((sample s).rst = false → s.state = .idle → (sample s).start = false → step s = exec .idle (sampled s)))

/-- A step runs the instruction its wires' bits decode to, on the state whose environment has presented the step's
inputs, and presenting them touches none of the block's nine items (rules R20, R45; the order of the wires in the bit word
is the model's choice, log entry 8). How the model keeps the environment is the MODEL'S CHOICE and no rule of the spec:
sampling uses up one line of `script` (log entry 2, DESIGN CHOICE; after the "one line per step" of rule R49), installs
the image declared with that line (log entry 12, DESIGN CHOICE), and raises the counter `tick` by one (log entry 3, DESIGN
CHOICE). -/
def Obligations.StepRunsTheDecodedInstruction : Prop :=
  ∀ (s : State) (i : Instr),
    decodeBits s.dimBits ((stepWord s).toBits s.dimBits) = .ok i → i.wf s.dimBits = true →
      step s = exec i (sampled s) ∧ SameBlock s (sampled s) ∧ (sampled s).script = s.script.tail ∧
      (sampled s).img = sourceImage s ∧ (sampled s).tick = s.tick + 1

/-- The model's way of placing an instruction's bits (log entry 11, DESIGN CHOICE): the coming step runs exactly the
instruction those bits decode to. -/
def Obligations.PlacedWordIsTheNextInstruction : Prop :=
  ∀ (s : State) (nbits w : Nat) (i : Instr),
    decodeBits s.dimBits (w % 2 ^ nbits) = .ok i →
      step (s.withFetchWord nbits w) = exec i (sampled (s.withFetchWord nbits w)) ∧
      (sampled (s.withFetchWord nbits w)).script = s.script

/-- Words written out from the table of rule R45 and the format of rule R41, at DIM_BITS = 16: RESET `1--`, CONVERT
`010` of a 10 by 2 frame, STEP `0-1` of the pixel `(18,52,86,255)`, IDLE `000`; the order of the wires above bit 2 is the
model's (log entry 8). -/
def Obligations.SpecWordsDecode : Prop :=
  decodeBits 16 0b100 = .ok .reset ∧ decodeBits 16 0b111 = .ok .reset ∧
  decodeBits 16 (0b010 + 10 * 2 ^ 3 + 2 * 2 ^ 19) = .ok (.convert 10 2) ∧
  decodeBits 16 (0b001 + 0x123456FF * 2 ^ 35) = .ok (.step 0x123456FF#32) ∧
  decodeBits 16 (0b011 + 0xFF0000FE * 2 ^ 35) = .ok (.step 0xFF0000FE#32) ∧
  decodeBits 16 0b000 = .ok .idle

/-- Decode and encode agree for every well-formed step operation, at every DIM_BITS and every operand value; the datapath
functions, which no control bits select (rule R50), have no word. -/
def Obligations.DecodeOfEncodeIsTheInstruction : Prop :=
  ∀ (n : Nat) (i : Instr), i.wf n = true →
    (i.isStepOp = true → ∃ w, encode n i = some w ∧ decodeBits n w = .ok i) ∧
    (i.isStepOp = false → encode n i = none)

/-- No value on the wires is illegal: every number that the wires can carry decodes to a well-formed step operation,
and a bit without a wire is rejected. -/
def Obligations.EveryWireValueDecodes : Prop :=
  ∀ n w : Nat,
    (w < wordBound n → ∃ i, decodeBits n w = .ok i ∧ i.wf n = true ∧ i.isStepOp = true) ∧
    (wordBound n ≤ w → decodeBits n w = .error .noSuchWire)

/-! ### The step operations -/

/-- Rule R85: RESET from any state puts all nine items at their values of rule R19, whatever `start`, the dimensions and
the pixel are; it marks nothing valid on the output ports; it is idempotent. -/
def Obligations.ResetGivesTheResetValues : Prop :=
  (∀ s : State, ∃ t, exec .reset s = .next t ∧ ResetValues t ∧ SameEnvironment s t ∧ t.result = s.result ∧
    exec .reset t = .next t) ∧
  (∀ s : State, (sample s).rst = true →
    ∃ t, step s = .next t ∧ ResetValues t ∧ (ports s).colValid = false ∧ (ports s).maskValid = false)

/-- Rule R63: START loads the dimensions on its ports, clears the scan position, the accumulator and both sequences, and
completes a frame with a zero dimension at once; it reads no pixel and marks nothing valid. -/
def Obligations.StartAcceptsTheFrame : Prop :=
  (∀ (s : State) (w h : Nat), (Instr.convert w h).wf s.dimBits = true →
    ∃ t, exec (.convert w h) s = .next t ∧ t.width = w ∧ t.height = h ∧ t.x = 0 ∧ t.y = 0 ∧ t.macc = 0 ∧
      t.cbuf = [] ∧ t.mbuf = [] ∧
      (if w = 0 ∨ h = 0 then t.state = .idle ∧ t.done = true else t.state = .run ∧ t.done = false) ∧
      SameEnvironment s t ∧ t.result = s.result) ∧
  (∀ s : State, (sample s).rst = false → (sample s).start = true → s.state = .idle →
    step s = exec (.convert ((sample s).widthIn % 2 ^ s.dimBits) ((sample s).heightIn % 2 ^ s.dimBits)) (sampled s) ∧
      (ports s).colValid = false ∧ (ports s).maskValid = false ∧ (ports s).pixReq = false)

/-- Rule R64: a STEP appends the pixel's two color bytes, merges its mask bit, appends the mask byte at a chunk end and
advances the scan position, as the pseudocode says; `STATE` and `DONE` change at the last pixel only. -/
def Obligations.StepProcessesOnePixel : Prop :=
  (∀ (s : State) (p : Pix32), StateRules s → s.state = .run →
    ∃ t, exec (.step p) s = .next t ∧
      t.cbuf = s.cbuf ++ ser16be (packColor (red p) (green p) (blue p) (alpha p)) ∧
      (if s.x % 8 = 7 ∨ s.x = s.width - 1 then
        t.mbuf = s.mbuf ++ [s.macc ||| (if alpha p = 0 then 0#8 else 1#8 <<< (7 - s.x % 8))] ∧ t.macc = 0
       else t.mbuf = s.mbuf ∧ t.macc = s.macc ||| (if alpha p = 0 then 0#8 else 1#8 <<< (7 - s.x % 8))) ∧
      (if s.x ≠ s.width - 1 then t.x = s.x + 1 ∧ t.y = s.y ∧ t.state = .run ∧ t.done = false
       else if s.y ≠ s.height - 1 then t.x = 0 ∧ t.y = s.y + 1 ∧ t.state = .run ∧ t.done = false
       else t.x = 0 ∧ t.y = 0 ∧ t.state = .idle ∧ t.done = true) ∧
      t.width = s.width ∧ t.height = s.height ∧ SameEnvironment s t ∧ t.result = s.result) ∧
  (∀ s : State, StateRules s → s.state = .run → (sample s).rst = false →
    step s = exec (.step (pixRead s s.y s.x)) (sampled s) ∧
      (ports s).pixReq = true ∧ (ports s).pixRow = s.y ∧ (ports s).pixCol = s.x ∧ (ports s).colValid = true ∧
      (ports s).colData = packPixel (pixRead s s.y s.x) ∧
      ((ports s).maskValid = true ↔ s.x % 8 = 7 ∨ s.x = s.width - 1) ∧
      ((ports s).maskValid = true →
        (ports s).maskData =
          s.macc ||| (if alpha (pixRead s s.y s.x) = 0 then 0#8 else 1#8 <<< (7 - s.x % 8))))

/-- The frame of STEP, in every state, reachable or not: the dimensions, the parameter, the environment and the datapath
output stay; every byte of `CBUF` other than the two appended at offset `len(CBUF)` reads as before, and every byte of
`MBUF` other than the one appended at offset `len(MBUF)` at a chunk end. -/
def Obligations.StepFrame : Prop :=
  ∀ (s : State) (p : Pix32), ∃ t, exec (.step p) s = .next t ∧
    t.width = s.width ∧ t.height = s.height ∧ SameEnvironment s t ∧ t.result = s.result ∧
    (∀ a, a ≠ s.cbuf.length → a ≠ s.cbuf.length + 1 → readColor t a = readColor s a) ∧
    (∀ a, (chunkEnd s = true → a ≠ s.mbuf.length) → readMask t a = readMask s a)

/-- Rule R65: IDLE changes no state, reads no pixel and marks nothing valid; any number of IDLE steps leave the block as
it was. -/
def Obligations.IdleChangesNothing : Prop :=
  (∀ s : State, exec .idle s = .next s) ∧
  (∀ s : State, s.state = .idle → (sample s).rst = false → (sample s).start = false →
    step s = .next (sampled s) ∧ (ports s).pixReq = false ∧ (ports s).colValid = false ∧
      (ports s).maskValid = false) ∧
  (∀ (k : Nat) (s : State), s.state = .idle → k ≤ s.script.length →
    (∀ i ∈ s.script.take k, i.rst = false ∧ i.start = false) →
      ∃ t, Sys2Proof.core.run k s = .next t ∧ SameBlock s t)

/-- Rule R68 (the spec's decision D9): in a running frame a step with a `start` request is an ordinary STEP, the request
and the dimension inputs have no effect, the request is not remembered, and in the first step after the frame `start` is a
START again. -/
def Obligations.StartIgnoredWhileRunning : Prop :=
  (∀ s : State, s.state = .run → (sample s).rst = false → (sample s).start = true →
    step s = exec (.step (pixData s)) (sampled s)) ∧
  (∀ (s : State) (i j : Inputs) (rest : List Inputs), s.state = .run → i.rst = false → j.rst = false →
    i.image = j.image → step { s with script := i :: rest } = step { s with script := j :: rest }) ∧
  (∀ s : State, s.state = .idle → (sample s).rst = false → (sample s).start = true →
    decode (stepWord s) = .convert (fit s.dimBits (sample s).widthIn) (fit s.dimBits (sample s).heightIn))

/-- Rule R92 (the spec's decision D15): the dimension inputs are sampled in the START step and only there; in any other
step they may be anything. -/
def Obligations.DimensionsSampledAtStartOnly : Prop :=
  (∀ (s : State) (i : Inputs) (w h : Nat) (rest : List Inputs),
    i.rst = true ∨ s.state = .run ∨ i.start = false →
      step { s with script := i :: rest } = step { s with script := { i with widthIn := w, heightIn := h } :: rest }) ∧
  (∀ s t : State, s.state = .run → (sample s).rst = false → step s = .next t →
    t.width = s.width ∧ t.height = s.height) ∧
  (∀ s : State, s.state = .idle → (sample s).rst = false → (sample s).start = true →
    ∃ t, step s = .next t ∧ t.width = (sample s).widthIn % 2 ^ s.dimBits ∧
      t.height = (sample s).heightIn % 2 ^ s.dimBits)

/-! ### The datapath functions -/

/-- Rule R51: PACKCOLOR completes on every pixel with `R5*2048 + G6*32 + B5` of the truncated channels, and changes
nothing but its output. -/
def Obligations.PackColorFormula : Prop :=
  ∀ (r g b a : Byte) (s : State), ∃ c : Color,
    exec (.packcolor (pix32 r g b a)) s = .next { s with result := .color c } ∧
    c.toNat = r.toNat / 8 * 2048 + g.toNat / 4 * 32 + b.toNat / 8

/-- Rules R42 and R46: the color word is `{R5, G6, B5}`, its fields are the bits 31:27, 23:18 and 15:11 of the pixel
word, the mask bit is the OR of the eight alpha bits, and nothing else reaches an output. -/
def Obligations.OutputBitsAreSelected : Prop :=
  ∀ p : Pix32,
    red5 (packPixel p) = p.extractLsb' 27 5 ∧ green6 (packPixel p) = p.extractLsb' 18 6 ∧
    blue5 (packPixel p) = p.extractLsb' 11 5 ∧
    packPixel p = red5 (packPixel p) ++ green6 (packPixel p) ++ blue5 (packPixel p) ∧
    maskBit p = (p.getLsbD 7 || p.getLsbD 6 || p.getLsbD 5 || p.getLsbD 4 || p.getLsbD 3 || p.getLsbD 2 ||
      p.getLsbD 1 || p.getLsbD 0)

/-- 40_packcolor.md section 1, properties (b) and (c): every 16-bit word is the result for some channels, namely exactly
those whose high bits are its fields; each field is monotone in its own channel and independent of the others. -/
def Obligations.EveryColorWordHasItsPreimages : Prop :=
  (∀ c : Color, ∃ r g b : Byte, ∀ a, packColor r g b a = c) ∧
  (∀ (c : Color) (r g b a : Byte),
    packColor r g b a = c ↔
      r.toNat / 8 = (red5 c).toNat ∧ g.toNat / 4 = (green6 c).toNat ∧ b.toNat / 8 = (blue5 c).toNat) ∧
  (∀ r r' g g' b b' a a' : Byte, r ≤ r' → red5 (packColor r g b a) ≤ red5 (packColor r' g' b' a')) ∧
  (∀ r r' g g' b b' a a' : Byte, g ≤ g' → green6 (packColor r g b a) ≤ green6 (packColor r' g' b' a')) ∧
  (∀ r r' g g' b b' a a' : Byte, b ≤ b' → blue5 (packColor r g b a) ≤ blue5 (packColor r' g' b' a'))

/-- Rule R53: SER16BE completes on every color word with its more significant byte and then its less significant byte,
that is `{R5, G6[5:3]}` and `{G6[2:0], B5}`, and changes nothing but its output. -/
def Obligations.SerialisationIsBigEndian : Prop :=
  ∀ (c : Color) (s : State), ∃ hi lo : Byte,
    exec (.ser16be c) s = .next { s with result := .bytes [hi, lo] } ∧
    hi.toNat = c.toNat / 256 ∧ lo.toNat = c.toNat % 256 ∧
    hi.toNat = (red5 c).toNat * 8 + (green6 c).toNat / 8 ∧
    lo.toNat = (green6 c).toNat % 8 * 32 + (blue5 c).toNat

/-- Rule R54: unpacking a packed pixel gives each channel less its remainder, within 7, 3 and 7 of the original and never
above it; the bounds are reached; packing again gives the same word. -/
def Obligations.UnpackWithinTruncationError : Prop :=
  (∀ r g b a : Byte,
    (unpack565 (packColor r g b a)).1.toNat = r.toNat - r.toNat % 8 ∧
    (unpack565 (packColor r g b a)).2.1.toNat = g.toNat - g.toNat % 4 ∧
    (unpack565 (packColor r g b a)).2.2.toNat = b.toNat - b.toNat % 8 ∧
    (unpack565 (packColor r g b a)).1 ≤ r ∧ r.toNat - (unpack565 (packColor r g b a)).1.toNat ≤ 7 ∧
    (unpack565 (packColor r g b a)).2.1 ≤ g ∧ g.toNat - (unpack565 (packColor r g b a)).2.1.toNat ≤ 3 ∧
    (unpack565 (packColor r g b a)).2.2 ≤ b ∧ b.toNat - (unpack565 (packColor r g b a)).2.2.toNat ≤ 7) ∧
  unpack565 (packColor 7 3 7 0) = (0, 0, 0) ∧ unpack565 (packColor 255 255 255 0) = (248, 252, 248) ∧
  (∀ (c : Color) (a : Byte), packColor (unpack565 c).1 (unpack565 c).2.1 (unpack565 c).2.2 a = c)

/-- Rule R56: PACKMASKBIT completes on every pixel with 1 exactly when alpha is not 0, whatever the color channels are,
and changes nothing but its output. -/
def Obligations.MaskBitIsAlphaNotZero : Prop :=
  ∀ (r g b a : Byte) (s : State), ∃ m : Bool,
    exec (.packmaskbit (pix32 r g b a)) s = .next { s with result := .bit m } ∧ (m = true ↔ a.toNat ≠ 0)

/-- 41_packmask.md section 2: PACKCHUNK completes on one to eight bits with the byte `sum over j < k of m_j * 2^(7-j)`,
`m_j` at bit `7 - j` and the padding bits 0, and changes nothing but its output. -/
def Obligations.ChunkBitsMostSignificantFirst : Prop :=
  ∀ (bits : List Bool) (s : State), 1 ≤ bits.length → bits.length ≤ 8 → ∃ b : Byte,
    exec (.packchunk bits) s = .next { s with result := .maskByte b } ∧
    b.toNat = ((List.range bits.length).map fun j => (bits.getD j false).toNat * 2 ^ (7 - j)).sum ∧
    (∀ j, j < 8 → b.getLsbD (7 - j) = bits.getD j false)

/-- The model's stop (log entry 7): PACKCHUNK on no bit or on more than eight, outside the domain `1 ≤ k ≤ 8`, is refused
by name. -/
def Obligations.ChunkOutsideItsDomainIsRefused : Prop :=
  ∀ (bits : List Bool) (s : State), bits.length = 0 ∨ 9 ≤ bits.length →
    exec (.packchunk bits) s = .refused (.chunkLength bits.length)

/-- Rule R58: PACKROW completes on a row of any width with `(w + 7) div 8` bytes, byte `j` the packed chunk of columns
`8j` to `min(8j + 7, w - 1)`, and changes nothing but its output. -/
def Obligations.RowIsPackedInChunks : Prop :=
  ∀ (bits : List Bool) (s : State), ∃ bs : List Byte,
    exec (.packrow bits) s = .next { s with result := .maskRow bs } ∧
    bs.length = (bits.length + 7) / 8 ∧
    ∀ j, j < (bits.length + 7) / 8 →
      bs[j]? = some (packChunk
        ((List.range (min (8 * j + 7) (bits.length - 1) + 1 - 8 * j)).map fun k => bits.getD (8 * j + k) false))

/-- 41_packmask.md section 4, property (c): a chunk of `k` pixels produces exactly the bytes whose low `8 - k` bits are
0. -/
def Obligations.ChunkReachesExactlyThePaddedBytes : Prop :=
  ∀ (k : Nat) (b : Byte), 1 ≤ k → k ≤ 8 →
    ((∃ bits : List Bool, bits.length = k ∧ packChunk bits = b) ↔ b.toNat % 2 ^ (8 - k) = 0)

/-! ### The frame as a function -/

/-- 42_convert.md section 1: the two buffers of a frame have `2 * W * H` and `H * ceil(W/8)` bytes. -/
def Obligations.ConvertLengths : Prop :=
  ∀ (w h : Nat) (img : ImageFn),
    (convert w h img).1.length = 2 * w * h ∧ (convert w h img).2.length = h * ((w + 7) / 8)

/-- Rule R62: a frame with a zero dimension has two empty buffers, the START step completes it, and no pixel is queried
after that step. -/
def Obligations.DegenerateFrameIsEmptyAndDone : Prop :=
  (∀ (w h : Nat) (img : ImageFn), w = 0 ∨ h = 0 → convert w h img = ([], [])) ∧
  (∀ (s : State) (w h : Nat), (Instr.convert w h).wf s.dimBits = true → w = 0 ∨ h = 0 →
    ∃ t, exec (.convert w h) s = .next t ∧ t.state = .idle ∧ t.done = true ∧ t.cbuf = [] ∧ t.mbuf = [] ∧
      (ports t).pixReq = false)

/-- Rule R26: the color value of the pixel with linear index `i = row * W + col` has its more significant byte at offset
`2i` of the color buffer and its less significant byte at offset `2i + 1`; the first holds the red field and the upper
three bits of the green one, the second the lower three bits of the green field and the blue one. -/
def Obligations.ColorBytesAtTheirOffsets : Prop :=
  ∀ (w h : Nat) (img : ImageFn) (row col : Nat), row < h → col < w →
    (colorBuffer w h img)[2 * (row * w + col)]? = some ((packPixel (img row col)).extractLsb' 8 8) ∧
    (colorBuffer w h img)[2 * (row * w + col) + 1]? = some ((packPixel (img row col)).extractLsb' 0 8) ∧
    (packPixel (img row col)).extractLsb' 8 8 =
      red5 (packPixel (img row col)) ++ (green6 (packPixel (img row col))).extractLsb' 3 3 ∧
    (packPixel (img row col)).extractLsb' 0 8 =
      (green6 (packPixel (img row col))).extractLsb' 0 3 ++ blue5 (packPixel (img row col))

/-- Rule R27's place and rule R29: the mask bit of pixel `(row, col)` is bit `7 - (col mod 8)` of byte
`row * S + (col div 8)`; the padding bits of a row's last byte are 0; the bytes of a row depend on that row alone. -/
def Obligations.MaskRowsAlignedAndPadded : Prop :=
  (∀ (w h : Nat) (img : ImageFn) (row col : Nat), row < h → col < w →
    ∃ b, (maskBuffer w h img)[row * ((w + 7) / 8) + col / 8]? = some b ∧
      b.getLsbD (7 - col % 8) = maskBit (img row col)) ∧
  (∀ (w h : Nat) (img : ImageFn) (row : Nat), row < h → w % 8 ≠ 0 →
    ∃ b, (maskBuffer w h img)[row * ((w + 7) / 8) + ((w + 7) / 8 - 1)]? = some b ∧
      (∀ j, j < w % 8 → b.getLsbD (7 - j) = maskBit (img row (w - w % 8 + j))) ∧
      (∀ j, j < 8 - w % 8 → b.getLsbD j = false)) ∧
  (∀ (w h : Nat) (img img' : ImageFn) (row j : Nat), row < h → j < (w + 7) / 8 →
    (∀ col, col < w → img row col = img' row col) →
      (maskBuffer w h img)[row * ((w + 7) / 8) + j]? = (maskBuffer w h img')[row * ((w + 7) / 8) + j]?)

/-- 41_packmask.md section 4, property (d): the 1 bits of the mask buffer are as many as the pixels whose alpha is not
0. -/
def Obligations.MaskOnesCountTheOpaquePixels : Prop :=
  ∀ (w h : Nat) (img : ImageFn),
    ((maskBuffer w h img).map fun b => ((List.range 8).filter fun j => b.getLsbD j).length).sum =
      ((List.range h).map fun row => ((List.range w).filter fun col => alpha (img row col) != 0).length).sum

/-- 42_convert.md section 4: a color byte pair depends on the color channels of its own pixel only, a mask byte on the
alpha channels of its own chunk only, and a frame is the row-wise concatenation of one-row frames. -/
def Obligations.RowsAndPixelsAreIndependent : Prop :=
  (∀ (w h : Nat) (img img' : ImageFn) (row col k : Nat), row < h → col < w → k < 2 →
    red (img row col) = red (img' row col) → green (img row col) = green (img' row col) →
    blue (img row col) = blue (img' row col) →
      (colorBuffer w h img)[2 * (row * w + col) + k]? = (colorBuffer w h img')[2 * (row * w + col) + k]?) ∧
  (∀ (w h : Nat) (img img' : ImageFn) (row j : Nat), row < h → j < (w + 7) / 8 →
    (∀ col, 8 * j ≤ col → col ≤ 8 * j + 7 → col < w → alpha (img row col) = alpha (img' row col)) →
      (maskBuffer w h img)[row * ((w + 7) / 8) + j]? = (maskBuffer w h img')[row * ((w + 7) / 8) + j]?) ∧
  (∀ (w h : Nat) (img : ImageFn),
    (convert w h img).1 = (List.range h).flatMap (fun row => (convert w 1 fun _ col => img row col).1) ∧
    (convert w h img).2 = (List.range h).flatMap (fun row => (convert w 1 fun _ col => img row col).2))

/-- 40_packcolor.md section 4: alpha does not affect the color buffer of a frame, nor the color channels its mask
buffer. -/
def Obligations.ColorAndAlphaAreIndependent : Prop :=
  (∀ (w h : Nat) (img img' : ImageFn),
    (∀ row col, red (img row col) = red (img' row col) ∧ green (img row col) = green (img' row col) ∧
      blue (img row col) = blue (img' row col)) → colorBuffer w h img = colorBuffer w h img') ∧
  (∀ (w h : Nat) (img img' : ImageFn),
    (∀ row col, alpha (img row col) = alpha (img' row col)) → maskBuffer w h img = maskBuffer w h img')

/-! ### Whole-machine rules -/

/-- Rule R73: there is no fault, no step faults or is refused, and no well-formed operation does. -/
def Obligations.NothingFaults : Prop :=
  IsEmpty Fault ∧ (∀ s : State, ∃ t, step s = .next t) ∧
  (∀ (s : State) (n : Nat) (i : Instr), i.wf n = true → ∃ t, exec i s = .next t)

/-- Rule R19's values, and the invariant of 10_state.md section 3, hold in the state after reset; its DIM_BITS of 16 is
the spec's default (log entry 1), its environment empty (log entries 2, 3, 6). -/
def Obligations.ResetStateIsLegal : Prop :=
  ResetValues State.reset ∧ State.reset.dimBits = 16 ∧ StateRules State.reset ∧ ImagesWf State.reset

/-- 10_state.md section 3, (a) to (f), with the widths of the registers: every step keeps the invariant, from every state
that meets it, whatever the inputs. -/
def Obligations.StepKeepsTheStateRules : Prop :=
  ∀ s t : State, StateRules s → step s = .next t → StateRules t

/-- The operations never write the image (rule R15: "The block never writes it.") nor the model's other fields for the
environment (log entries 2 and 3). The other clauses are the MODEL'S CHOICE and no rule of the spec: that the image of a state is a list in canonical form, which
every step keeps, and the laws of `imgSet` on it (log entry 16, DEDUCED; `imgSet` serves log entry 11, DESIGN CHOICE), and
that a step leaves the image declared with its line of script, else the one held (log entry 12, DESIGN CHOICE). -/
def Obligations.ImagesStayCanonicalAndUnwritten : Prop :=
  (∀ s t : State, ImagesWf s → step s = .next t → ImagesWf t ∧ t.img = sourceImage s) ∧
  (∀ (i : Instr) (s t : State), exec i s = .next t → SameEnvironment s t) ∧
  (∀ (im : Image) (c c' : Coord) (p : Pix32), imgWf im →
    imgWf (imgSet im c p) ∧ imgGet (imgSet im c p) c = some p ∧
      (c' ≠ c → imgGet (imgSet im c p) c' = imgGet im c'))

/-- Rule R11: `STATE` goes from IDLE to RUN exactly at an accepted START with non-zero dimensions, and from RUN to IDLE
exactly at RESET or at the STEP of the last pixel; `busy` is 1 exactly when `STATE = RUN`. -/
def Obligations.RunFlagTransitions : Prop :=
  ∀ s : State, StateRules s → ∃ t, step s = .next t ∧
    (s.state = .idle →
      (t.state = .run ↔ (sample s).rst = false ∧ (sample s).start = true ∧
        (sample s).widthIn % 2 ^ s.dimBits ≠ 0 ∧ (sample s).heightIn % 2 ^ s.dimBits ≠ 0)) ∧
    (s.state = .run →
      (t.state = .idle ↔ (sample s).rst = true ∨ (s.y = s.height - 1 ∧ s.x = s.width - 1))) ∧
    ((ports s).busy = true ↔ s.state = .run)

/-- 10_state.md section 2, the rule of `DONE`: set by the STEP of the last pixel and by a START with a zero dimension,
cleared by a START with both dimensions non-zero and by RESET, written by nothing else. -/
def Obligations.DoneFlagTransitions : Prop :=
  ∀ s : State, StateRules s → ∃ t, step s = .next t ∧
    ((sample s).rst = true → t.done = false) ∧
    ((sample s).rst = false → s.state = .run →
      (t.done = true ↔ s.y = s.height - 1 ∧ s.x = s.width - 1)) ∧
    ((sample s).rst = false → s.state = .idle → (sample s).start = true →
      (t.done = true ↔ (sample s).widthIn % 2 ^ s.dimBits = 0 ∨ (sample s).heightIn % 2 ^ s.dimBits = 0)) ∧
    ((sample s).rst = false → s.state = .idle → (sample s).start = false → t.done = s.done) ∧
    (ports s).done = s.done

/-- 42_convert.md section 3: the scan is row-major; a STEP goes to the next column, at a row end to the next row, at the
last pixel back to the origin with the frame ended; the linear index rises by one at every STEP that is not the last; none
of it depends on the pixel. -/
def Obligations.ScanIsRowMajor : Prop :=
  (∀ (s : State) (p : Pix32), StateRules s → s.state = .run → ∃ t, exec (.step p) s = .next t ∧
    (s.x < s.width - 1 → (t.y, t.x) = (s.y, s.x + 1)) ∧
    (s.x = s.width - 1 → s.y < s.height - 1 → (t.y, t.x) = (s.y + 1, 0)) ∧
    (s.x = s.width - 1 → s.y = s.height - 1 → (t.y, t.x) = (0, 0) ∧ t.state = .idle) ∧
    (s.y * s.width + s.x ≠ s.width * s.height - 1 →
      t.y * t.width + t.x = s.y * s.width + s.x + 1 ∧ t.state = .run) ∧
    (s.y * s.width + s.x = s.width * s.height - 1 → t.state = .idle)) ∧
  (∀ (s : State) (p q : Pix32), ∃ t u, exec (.step p) s = .next t ∧ exec (.step q) s = .next u ∧
    t.x = u.x ∧ t.y = u.y ∧ t.state = u.state ∧ t.done = u.done)

/-- 20_memory.md sections 2 to 6 and rules R13, R14: both sequences only grow, but for a START and a RESET, which empty
them; a STEP appends two bytes to `CBUF` and one byte to `MBUF` at a chunk end, else none; IDLE appends nothing; what the
ports mark valid is what is appended. -/
def Obligations.BuffersOnlyGrow : Prop :=
  ∀ s : State, ∃ t, step s = .next t ∧
    ((sample s).rst = true ∨ (s.state = .idle ∧ (sample s).start = true) → t.cbuf = [] ∧ t.mbuf = []) ∧
    ((sample s).rst = false → s.state = .run →
      t.cbuf = s.cbuf ++ ser16be (ports s).colData ∧ (ports s).colValid = true ∧
      t.mbuf = (if (ports s).maskValid then s.mbuf ++ [(ports s).maskData] else s.mbuf)) ∧
    ((sample s).rst = false → s.state = .idle → (sample s).start = false → t.cbuf = s.cbuf ∧ t.mbuf = s.mbuf)

/-- Rule R21: the output signals of the coming step; `col_data` and `mask_data` only where they are marked valid. -/
def Obligations.OutputSignals : Prop :=
  ∀ s : State,
    ((ports s).busy = true ↔ s.state = .run) ∧ (ports s).done = s.done ∧
    ((ports s).pixReq = true ↔ s.state = .run) ∧ (ports s).pixRow = s.y ∧ (ports s).pixCol = s.x ∧
    ((ports s).colValid = true ↔ (sample s).rst = false ∧ s.state = .run) ∧
    ((ports s).maskValid = true ↔
      ((sample s).rst = false ∧ s.state = .run) ∧ (s.x % 8 = 7 ∨ s.x + 1 = s.width)) ∧
    ((ports s).colValid = true →
      (ports s).colData =
        packColor (red (pixData s)) (green (pixData s)) (blue (pixData s)) (alpha (pixData s)) ∧
      ∃ t, step s = .next t ∧
        t.cbuf = s.cbuf ++ [(ports s).colData.extractLsb' 8 8, (ports s).colData.extractLsb' 0 8]) ∧
    ((ports s).maskValid = true →
      (ports s).maskData = s.macc ||| ((BitVec.ofBool (maskBit (pixData s))).zeroExtend 8 <<< (7 - s.x % 8)) ∧
      ∃ t, step s = .next t ∧ t.mbuf = s.mbuf ++ [(ports s).maskData]) ∧
    ((sample s).rst = true → (ports s).colValid = false ∧ (ports s).maskValid = false)

/-- 20_memory.md section 2: in every legal state with `pix_req = 1` the coordinate queried is inside the image, so the
block "never queries a coordinate outside the ranges". -/
def Obligations.QueriesStayInsideTheImage : Prop :=
  ∀ s : State, StateRules s → (ports s).pixReq = true → (ports s).pixRow < s.height ∧ (ports s).pixCol < s.width

/-- 93_implementation_defined.md U4 and rule R74: a STEP at a coordinate for which the image source has no pixel runs all
the same, on a free pixel word (log entry 4), of which nothing is known; the bytes appended are computed from it. -/
def Obligations.UnansweredQueryIsPackedAsItComes : Prop :=
  ∀ s : State, s.state = .run → (sample s).rst = false → imgGet (sourceImage s) (s.y, s.x) = none →
    step s = exec (.step (Config.freePixel s.tick)) (sampled s) ∧
    ∃ t, step s = .next t ∧ t.cbuf = s.cbuf ++ ser16be (packPixel (Config.freePixel s.tick))

/-- Rules R13, R14, R33: the block never reads a buffer: with other bytes in `CBUF` and `MBUF` a step does the same to
everything else. -/
def Obligations.BuffersAreNeverRead : Prop :=
  ∀ (s : State) (cb mb : List Byte), ∃ t u, step s = .next t ∧ step { s with cbuf := cb, mbuf := mb } = .next u ∧
    u = { t with cbuf := u.cbuf, mbuf := u.mbuf } ∧
    (∃ added, t.cbuf = s.cbuf ++ added ∧ u.cbuf = cb ++ added ∨ t.cbuf = [] ∧ u.cbuf = []) ∧
    (∃ added, t.mbuf = s.mbuf ++ added ∧ u.mbuf = mb ++ added ∨ t.mbuf = [] ∧ u.mbuf = [])

/-- 10_state.md section 4: after an accepted START the block is the same whatever it was before, as long as DIM_BITS is
the same. -/
def Obligations.NoStateSurvivesStart : Prop :=
  ∀ (s s' : State) (w h : Nat), s.dimBits = s'.dimBits →
    ∃ t t', exec (.convert w h) s = .next t ∧ exec (.convert w h) s' = .next t' ∧ SameBlock t t'

/-! ### Whole frames -/

/-- 42_convert.md section 3, from rules R60, R63, R64: a frame whose image source keeps the contract ends after one START
and exactly `W * H` STEPs with the two buffers of `convert`, whatever frames came before. -/
def Obligations.FrameEndsWithConvert : Prop :=
  ∀ (s : State) (w h : Nat) (img : ImageFn), FrameAhead s w h img →
    ∃ t, Sys2Proof.core.run (1 + w * h) s = .next t ∧ FrameDone t w h img

/-- 42_convert.md section 3, from rules R60, R63, R64: after `n < W * H` STEPs of such a frame the block runs, at scan
position `(n div W, n mod W)`, the buffers are the prefixes of those of `convert`, and the accumulator holds the bits of
the chunk in progress. -/
def Obligations.FrameInProgressHoldsPrefixes : Prop :=
  ∀ (s : State) (w h : Nat) (img : ImageFn) (n : Nat), FrameAhead s w h img → n < w * h →
    ∃ t, Sys2Proof.core.run (1 + n) s = .next t ∧ MidFrame t w h img n

/-- 20_memory.md section 2, from rules R24 and R64: in a frame each coordinate is queried exactly once, in row-major
order: the STEP number `n` queries `(n div W, n mod W)` and is answered with the image's pixel there. -/
def Obligations.FrameReadsEachPixelOnceInOrder : Prop :=
  ∀ (s : State) (w h : Nat) (img : ImageFn), FrameAhead s w h img →
    (∀ n, n < w * h →
      ∃ t, Sys2Proof.core.run (1 + n) s = .next t ∧ (ports t).pixReq = true ∧ (ports t).colValid = true ∧
        ((ports t).pixRow, (ports t).pixCol) = (n / w, n % w) ∧ pixData t = img (n / w) (n % w)) ∧
    (∀ row col, row < h → col < w → ∃ n, n < w * h ∧ (n / w, n % w) = (row, col) ∧
      ∀ m, (m / w, m % w) = (row, col) → m = n)

/-- Rules R49 and R45: each line of a script, in a state where it is legal, performs the operation it names. That the
line is used up and the counter `tick` rises is the model's choice (log entries 2 and 3, DESIGN CHOICE). -/
def Obligations.ScriptLinesPerformTheirOperations : Prop :=
  ∀ (s : State) (rest : List Inputs),
    (∀ b, step { s with script := (ScriptLine.reset b).inputs :: rest } = exec .reset { s with script := rest, tick := s.tick + 1 }) ∧
    (∀ w h, (ScriptLine.convert w h).legal s = true →
      step { s with script := (ScriptLine.convert w h).inputs :: rest } =
        exec (.convert (fit s.dimBits w) (fit s.dimBits h)) { s with script := rest, tick := s.tick + 1 }) ∧
    (ScriptLine.step.legal s = true →
      ∃ p, step { s with script := ScriptLine.step.inputs :: rest } = exec (.step p) { s with script := rest, tick := s.tick + 1 } ∧
        (∀ q, imgGet s.img (s.y, s.x) = some q → p = q)) ∧
    (∀ w h, (ScriptLine.stepS w h).legal s = true →
      step { s with script := (ScriptLine.stepS w h).inputs :: rest } =
        step { s with script := ScriptLine.step.inputs :: rest }) ∧
    (ScriptLine.idle.legal s = true →
      step { s with script := ScriptLine.idle.inputs :: rest } = .next { s with script := rest, tick := s.tick + 1 })

/-- 30_encoding.md section 6 and 42_convert.md section 4: the pseudo-operation `RUN` ends the running frame from any
legal state, with the lines that follow it left; `FRAME w h` is `1 + w*h` steps and, from IDLE, ends the frame. -/
def Obligations.RunAndFramePseudoOperations : Prop :=
  (∀ (s : State) (rest : List Inputs), StateRules s → s.state = .run → s.script = runLines s ++ rest →
    ∃ t, Sys2Proof.core.run (stepsLeft s) s = .next t ∧ t.state = .idle ∧ t.done = true ∧ t.script = rest) ∧
  (∀ (s : State) (w h : Nat) (rest : List Inputs), s.state = .idle → (Instr.convert w h).wf s.dimBits = true →
    s.script = frameLines w h ++ rest →
    (frameLines w h).length = 1 + w * h ∧
    ∃ t, Sys2Proof.core.run (1 + w * h) s = .next t ∧ t.state = .idle ∧ t.done = true ∧ t.width = w ∧ t.height = h ∧
      t.cbuf.length = 2 * w * h ∧ t.mbuf.length = h * ((w + 7) / 8) ∧ t.script = rest)
end

