-- ==== Sys2Proof/Laws/Color.lean ====
section
/-! SUPPORT. The laws of the color packer: the fields of a packed word, and the channels of a pixel word. -/

namespace Sys2Proof.Machine

theorem red_toNat (p : Pix32) : (red p).toNat = p.toNat / 2 ^ 24 := by
  have := p.isLt
  simp only [red, BitVec.extractLsb'_toNat, Nat.shiftRight_eq_div_pow]; omega
theorem green_toNat (p : Pix32) : (green p).toNat = p.toNat / 2 ^ 16 % 2 ^ 8 := by
  simp only [green, BitVec.extractLsb'_toNat, Nat.shiftRight_eq_div_pow]
theorem blue_toNat (p : Pix32) : (blue p).toNat = p.toNat / 2 ^ 8 % 2 ^ 8 := by
  simp only [blue, BitVec.extractLsb'_toNat, Nat.shiftRight_eq_div_pow]
theorem alpha_toNat (p : Pix32) : (alpha p).toNat = p.toNat % 2 ^ 8 := by
  simp only [alpha, BitVec.extractLsb'_toNat, Nat.shiftRight_zero]

theorem pix32_toNat (r g b a : Byte) :
    (pix32 r g b a).toNat = ((r.toNat * 2 ^ 8 + g.toNat) * 2 ^ 8 + b.toNat) * 2 ^ 8 + a.toNat := by
  have := r.isLt; have := g.isLt; have := b.isLt; have := a.isLt
  simp only [pix32, BitVec.toNat_ofNat]; omega

@[simp] theorem red_pix32 (r g b a : Byte) : red (pix32 r g b a) = r := by
  have := r.isLt; have := g.isLt; have := b.isLt; have := a.isLt
  apply BitVec.eq_of_toNat_eq
  rw [red_toNat, pix32_toNat]; omega
@[simp] theorem green_pix32 (r g b a : Byte) : green (pix32 r g b a) = g := by
  have := r.isLt; have := g.isLt; have := b.isLt; have := a.isLt
  apply BitVec.eq_of_toNat_eq
  rw [green_toNat, pix32_toNat]; omega
@[simp] theorem blue_pix32 (r g b a : Byte) : blue (pix32 r g b a) = b := by
  have := r.isLt; have := g.isLt; have := b.isLt; have := a.isLt
  apply BitVec.eq_of_toNat_eq
  rw [blue_toNat, pix32_toNat]; omega
@[simp] theorem alpha_pix32 (r g b a : Byte) : alpha (pix32 r g b a) = a := by
  have := r.isLt; have := g.isLt; have := b.isLt; have := a.isLt
  apply BitVec.eq_of_toNat_eq
  rw [alpha_toNat, pix32_toNat]; omega

/-- The packed color reads the three color channels only (rule R55). -/
theorem packPixel_congr {p q : Pix32} (hr : red p = red q) (hg : green p = green q) (hb : blue p = blue q) :
    packPixel p = packPixel q := by simp only [packPixel, packColor, hr, hg, hb]

@[simp] theorem ser16be_length (c : Color) : (ser16be c).length = 2 := rfl

end Sys2Proof.Machine
end

