-- ==== Sys2Proof/Laws/Decode.lean ====
section
/-! SUPPORT. The laws of the wires: which numbers they carry and how the fields are read out of one. -/

namespace Sys2Proof

/-- The dimensions on the wires fit their ports. -/
def StepWord.fits (n : Nat) (s : StepWord) : Prop := s.widthIn < 2 ^ n ∧ s.heightIn < 2 ^ n

theorem StepWord.ofBits_fits (n w : Nat) : (StepWord.ofBits n w).fits n :=
  ⟨Nat.mod_lt _ (Nat.two_pow_pos n), Nat.mod_lt _ (Nat.two_pow_pos n)⟩

/-- What the wires carry is within the wires. -/
theorem StepWord.toBits_lt {n : Nat} {s : StepWord} (h : s.fits n) : s.toBits n < wordBound n := by
  obtain ⟨hw, hh⟩ := h
  have hc := s.ctl.isLt
  have hp := s.pixData.isLt
  unfold StepWord.toBits wordBound
  generalize 2 ^ n = N at *
  have h1 : s.heightIn + N * s.pixData.toNat + 1 ≤ N * 2 ^ 32 := by nlinarith
  have h2 : s.widthIn + N * (s.heightIn + N * s.pixData.toNat) + 1 ≤ N * (N * 2 ^ 32) := by nlinarith
  have h3 : 8 * N * N * 2 ^ 32 = 8 * (N * (N * 2 ^ 32)) := by ring
  omega

theorem StepWord.fits_of_wf {n : Nat} {i : Instr} (h : i.wf n = true) {s : StepWord} (hs : encodeWord i = some s) :
    s.fits n := by
  cases i <;> simp [encodeWord] at hs <;> subst hs <;>
    simp_all [StepWord.fits, Instr.wf, fitsPort]

end Sys2Proof
end

