-- ==== Sys2Proof/Laws/State.lean ====
section
/-! SUPPORT. What each named update of the state does to each field, so that no proof unfolds a record update. -/

namespace Sys2Proof.Machine

@[simp] theorem sampled_width (s : State) : (sampled s).width = s.width := rfl
@[simp] theorem sampled_height (s : State) : (sampled s).height = s.height := rfl
@[simp] theorem sampled_x (s : State) : (sampled s).x = s.x := rfl
@[simp] theorem sampled_y (s : State) : (sampled s).y = s.y := rfl
@[simp] theorem sampled_macc (s : State) : (sampled s).macc = s.macc := rfl
@[simp] theorem sampled_state (s : State) : (sampled s).state = s.state := rfl
@[simp] theorem sampled_done (s : State) : (sampled s).done = s.done := rfl
@[simp] theorem sampled_cbuf (s : State) : (sampled s).cbuf = s.cbuf := rfl
@[simp] theorem sampled_mbuf (s : State) : (sampled s).mbuf = s.mbuf := rfl
@[simp] theorem sampled_dimBits (s : State) : (sampled s).dimBits = s.dimBits := rfl
@[simp] theorem sampled_img (s : State) : (sampled s).img = sourceImage s := rfl
@[simp] theorem sampled_script (s : State) : (sampled s).script = s.script.tail := rfl
@[simp] theorem sampled_tick (s : State) : (sampled s).tick = s.tick + 1 := rfl
@[simp] theorem sampled_result (s : State) : (sampled s).result = s.result := rfl

@[simp] theorem colorAppend_width (c : Color) (s : State) : (colorAppend c s).width = s.width := rfl
@[simp] theorem colorAppend_height (c : Color) (s : State) : (colorAppend c s).height = s.height := rfl
@[simp] theorem colorAppend_x (c : Color) (s : State) : (colorAppend c s).x = s.x := rfl
@[simp] theorem colorAppend_y (c : Color) (s : State) : (colorAppend c s).y = s.y := rfl
@[simp] theorem colorAppend_macc (c : Color) (s : State) : (colorAppend c s).macc = s.macc := rfl
@[simp] theorem colorAppend_state (c : Color) (s : State) : (colorAppend c s).state = s.state := rfl
@[simp] theorem colorAppend_done (c : Color) (s : State) : (colorAppend c s).done = s.done := rfl
@[simp] theorem colorAppend_cbuf (c : Color) (s : State) : (colorAppend c s).cbuf = s.cbuf ++ ser16be c := rfl
@[simp] theorem colorAppend_mbuf (c : Color) (s : State) : (colorAppend c s).mbuf = s.mbuf := rfl
@[simp] theorem colorAppend_dimBits (c : Color) (s : State) : (colorAppend c s).dimBits = s.dimBits := rfl
@[simp] theorem colorAppend_img (c : Color) (s : State) : (colorAppend c s).img = s.img := rfl
@[simp] theorem colorAppend_script (c : Color) (s : State) : (colorAppend c s).script = s.script := rfl
@[simp] theorem colorAppend_tick (c : Color) (s : State) : (colorAppend c s).tick = s.tick := rfl
@[simp] theorem colorAppend_result (c : Color) (s : State) : (colorAppend c s).result = s.result := rfl

@[simp] theorem maskAppend_width (b : Byte) (s : State) : (maskAppend b s).width = s.width := rfl
@[simp] theorem maskAppend_height (b : Byte) (s : State) : (maskAppend b s).height = s.height := rfl
@[simp] theorem maskAppend_x (b : Byte) (s : State) : (maskAppend b s).x = s.x := rfl
@[simp] theorem maskAppend_y (b : Byte) (s : State) : (maskAppend b s).y = s.y := rfl
@[simp] theorem maskAppend_macc (b : Byte) (s : State) : (maskAppend b s).macc = s.macc := rfl
@[simp] theorem maskAppend_state (b : Byte) (s : State) : (maskAppend b s).state = s.state := rfl
@[simp] theorem maskAppend_done (b : Byte) (s : State) : (maskAppend b s).done = s.done := rfl
@[simp] theorem maskAppend_cbuf (b : Byte) (s : State) : (maskAppend b s).cbuf = s.cbuf := rfl
@[simp] theorem maskAppend_mbuf (b : Byte) (s : State) : (maskAppend b s).mbuf = s.mbuf ++ [b] := rfl
@[simp] theorem maskAppend_dimBits (b : Byte) (s : State) : (maskAppend b s).dimBits = s.dimBits := rfl
@[simp] theorem maskAppend_img (b : Byte) (s : State) : (maskAppend b s).img = s.img := rfl
@[simp] theorem maskAppend_script (b : Byte) (s : State) : (maskAppend b s).script = s.script := rfl
@[simp] theorem maskAppend_tick (b : Byte) (s : State) : (maskAppend b s).tick = s.tick := rfl
@[simp] theorem maskAppend_result (b : Byte) (s : State) : (maskAppend b s).result = s.result := rfl

@[simp] theorem advanceScan_width (s : State) : (advanceScan s).width = s.width := rfl
@[simp] theorem advanceScan_height (s : State) : (advanceScan s).height = s.height := rfl
@[simp] theorem advanceScan_x (s : State) : (advanceScan s).x = nextX s := rfl
@[simp] theorem advanceScan_y (s : State) : (advanceScan s).y = nextY s := rfl
@[simp] theorem advanceScan_macc (s : State) : (advanceScan s).macc = s.macc := rfl
@[simp] theorem advanceScan_state (s : State) : (advanceScan s).state = stepState s := rfl
@[simp] theorem advanceScan_done (s : State) : (advanceScan s).done = stepDone s := rfl
@[simp] theorem advanceScan_cbuf (s : State) : (advanceScan s).cbuf = s.cbuf := rfl
@[simp] theorem advanceScan_mbuf (s : State) : (advanceScan s).mbuf = s.mbuf := rfl
@[simp] theorem advanceScan_dimBits (s : State) : (advanceScan s).dimBits = s.dimBits := rfl
@[simp] theorem advanceScan_img (s : State) : (advanceScan s).img = s.img := rfl
@[simp] theorem advanceScan_script (s : State) : (advanceScan s).script = s.script := rfl
@[simp] theorem advanceScan_tick (s : State) : (advanceScan s).tick = s.tick := rfl
@[simp] theorem advanceScan_result (s : State) : (advanceScan s).result = s.result := rfl

@[simp] theorem clearFrame_width (s : State) : (clearFrame s).width = s.width := rfl
@[simp] theorem clearFrame_height (s : State) : (clearFrame s).height = s.height := rfl
@[simp] theorem clearFrame_x (s : State) : (clearFrame s).x = 0 := rfl
@[simp] theorem clearFrame_y (s : State) : (clearFrame s).y = 0 := rfl
@[simp] theorem clearFrame_macc (s : State) : (clearFrame s).macc = 0 := rfl
@[simp] theorem clearFrame_state (s : State) : (clearFrame s).state = s.state := rfl
@[simp] theorem clearFrame_done (s : State) : (clearFrame s).done = s.done := rfl
@[simp] theorem clearFrame_cbuf (s : State) : (clearFrame s).cbuf = [] := rfl
@[simp] theorem clearFrame_mbuf (s : State) : (clearFrame s).mbuf = [] := rfl
@[simp] theorem clearFrame_dimBits (s : State) : (clearFrame s).dimBits = s.dimBits := rfl
@[simp] theorem clearFrame_img (s : State) : (clearFrame s).img = s.img := rfl
@[simp] theorem clearFrame_script (s : State) : (clearFrame s).script = s.script := rfl
@[simp] theorem clearFrame_tick (s : State) : (clearFrame s).tick = s.tick := rfl
@[simp] theorem clearFrame_result (s : State) : (clearFrame s).result = s.result := rfl

@[simp] theorem startFrame_width (w h : Nat) (s : State) : (startFrame w h s).width = w := rfl
@[simp] theorem startFrame_height (w h : Nat) (s : State) : (startFrame w h s).height = h := rfl
@[simp] theorem startFrame_x (w h : Nat) (s : State) : (startFrame w h s).x = 0 := rfl
@[simp] theorem startFrame_y (w h : Nat) (s : State) : (startFrame w h s).y = 0 := rfl
@[simp] theorem startFrame_macc (w h : Nat) (s : State) : (startFrame w h s).macc = 0 := rfl
@[simp] theorem startFrame_state (w h : Nat) (s : State) : (startFrame w h s).state = startState w h := rfl
@[simp] theorem startFrame_done (w h : Nat) (s : State) : (startFrame w h s).done = startDone w h := rfl
@[simp] theorem startFrame_cbuf (w h : Nat) (s : State) : (startFrame w h s).cbuf = [] := rfl
@[simp] theorem startFrame_mbuf (w h : Nat) (s : State) : (startFrame w h s).mbuf = [] := rfl
@[simp] theorem startFrame_dimBits (w h : Nat) (s : State) : (startFrame w h s).dimBits = s.dimBits := rfl
@[simp] theorem startFrame_img (w h : Nat) (s : State) : (startFrame w h s).img = s.img := rfl
@[simp] theorem startFrame_script (w h : Nat) (s : State) : (startFrame w h s).script = s.script := rfl
@[simp] theorem startFrame_tick (w h : Nat) (s : State) : (startFrame w h s).tick = s.tick := rfl
@[simp] theorem startFrame_result (w h : Nat) (s : State) : (startFrame w h s).result = s.result := rfl

@[simp] theorem maskStep_mbuf (p : Pix32) (s : State) :
    (maskStep p s).mbuf = if chunkEnd s then s.mbuf ++ [mergeBit p s] else s.mbuf := by
  unfold maskStep; split <;> rfl
@[simp] theorem maskStep_macc (p : Pix32) (s : State) :
    (maskStep p s).macc = if chunkEnd s then 0 else mergeBit p s := by
  unfold maskStep; split <;> rfl
@[simp] theorem maskStep_width (p : Pix32) (s : State) : (maskStep p s).width = s.width := by
  unfold maskStep; split <;> rfl
@[simp] theorem maskStep_height (p : Pix32) (s : State) : (maskStep p s).height = s.height := by
  unfold maskStep; split <;> rfl
@[simp] theorem maskStep_x (p : Pix32) (s : State) : (maskStep p s).x = s.x := by
  unfold maskStep; split <;> rfl
@[simp] theorem maskStep_y (p : Pix32) (s : State) : (maskStep p s).y = s.y := by
  unfold maskStep; split <;> rfl
@[simp] theorem maskStep_state (p : Pix32) (s : State) : (maskStep p s).state = s.state := by
  unfold maskStep; split <;> rfl
@[simp] theorem maskStep_done (p : Pix32) (s : State) : (maskStep p s).done = s.done := by
  unfold maskStep; split <;> rfl
@[simp] theorem maskStep_cbuf (p : Pix32) (s : State) : (maskStep p s).cbuf = s.cbuf := by
  unfold maskStep; split <;> rfl
@[simp] theorem maskStep_dimBits (p : Pix32) (s : State) : (maskStep p s).dimBits = s.dimBits := by
  unfold maskStep; split <;> rfl
@[simp] theorem maskStep_img (p : Pix32) (s : State) : (maskStep p s).img = s.img := by
  unfold maskStep; split <;> rfl
@[simp] theorem maskStep_script (p : Pix32) (s : State) : (maskStep p s).script = s.script := by
  unfold maskStep; split <;> rfl
@[simp] theorem maskStep_tick (p : Pix32) (s : State) : (maskStep p s).tick = s.tick := by
  unfold maskStep; split <;> rfl
@[simp] theorem maskStep_result (p : Pix32) (s : State) : (maskStep p s).result = s.result := by
  unfold maskStep; split <;> rfl

/-! The conditions a STEP tests read only the scan position and the dimensions, which its appends leave alone. -/

@[simp] theorem lastCol_colorAppend (c : Color) (s : State) : lastCol (colorAppend c s) = lastCol s := rfl
@[simp] theorem lastRow_colorAppend (c : Color) (s : State) : lastRow (colorAppend c s) = lastRow s := rfl
@[simp] theorem chunkEnd_colorAppend (c : Color) (s : State) : chunkEnd (colorAppend c s) = chunkEnd s := rfl
@[simp] theorem mergeBit_colorAppend (p : Pix32) (c : Color) (s : State) :
    mergeBit p (colorAppend c s) = mergeBit p s := rfl

theorem lastCol_congr {s t : State} (hx : t.x = s.x) (hw : t.width = s.width) : lastCol t = lastCol s := by
  simp only [lastCol, hx, hw]
theorem lastRow_congr {s t : State} (hy : t.y = s.y) (hh : t.height = s.height) : lastRow t = lastRow s := by
  simp only [lastRow, hy, hh]

@[simp] theorem lastCol_maskStep (p : Pix32) (s : State) : lastCol (maskStep p s) = lastCol s :=
  lastCol_congr (by simp) (by simp)
@[simp] theorem lastRow_maskStep (p : Pix32) (s : State) : lastRow (maskStep p s) = lastRow s :=
  lastRow_congr (by simp) (by simp)

theorem nextX_congr {s t : State} (hx : t.x = s.x) (hw : t.width = s.width) (hd : t.dimBits = s.dimBits) :
    nextX t = nextX s := by simp only [nextX, lastCol_congr hx hw, hx, hd]
theorem nextY_congr {s t : State} (hx : t.x = s.x) (hw : t.width = s.width) (hy : t.y = s.y)
    (hh : t.height = s.height) (hd : t.dimBits = s.dimBits) : nextY t = nextY s := by
  simp only [nextY, lastCol_congr hx hw, lastRow_congr hy hh, hy, hd]
theorem lastPixel_congr {s t : State} (hx : t.x = s.x) (hw : t.width = s.width) (hy : t.y = s.y)
    (hh : t.height = s.height) : lastPixel t = lastPixel s := by
  simp only [lastPixel, lastCol_congr hx hw, lastRow_congr hy hh]
theorem stepState_congr {s t : State} (hx : t.x = s.x) (hw : t.width = s.width) (hy : t.y = s.y)
    (hh : t.height = s.height) (hs : t.state = s.state) : stepState t = stepState s := by
  simp only [stepState, lastPixel_congr hx hw hy hh, hs]
theorem stepDone_congr {s t : State} (hx : t.x = s.x) (hw : t.width = s.width) (hy : t.y = s.y)
    (hh : t.height = s.height) (hd : t.done = s.done) : stepDone t = stepDone s := by
  simp only [stepDone, lastPixel_congr hx hw hy hh, hd]

end Sys2Proof.Machine
end

