-- ==== Sys2Proof/Laws/Exec.lean ====
section
/-! SUPPORT. What each operation and each step answers, said once: the lemmas that proofs cite instead of unfolding exec and step. -/

namespace Sys2Proof.Machine

/-- The state after a STEP on a pixel word. -/
def stepped (p : Pix32) (s : State) : State := advanceScan (maskStep p (colorAppend (packPixel p) s))

@[simp] theorem exec_reset (s : State) :
    exec .reset s = .next { clearFrame s with width := 0, height := 0, state := .idle, done := false } := rfl
@[simp] theorem exec_convert (w h : Nat) (s : State) :
    exec (.convert w h) s = .next (startFrame (fit s.dimBits w) (fit s.dimBits h) s) := rfl
@[simp] theorem exec_step (p : Pix32) (s : State) : exec (.step p) s = .next (stepped p s) := rfl
@[simp] theorem exec_idle (s : State) : exec .idle s = .next s := rfl
@[simp] theorem exec_packcolor (p : Pix32) (s : State) :
    exec (.packcolor p) s = .next { s with result := .color (packPixel p) } := rfl
@[simp] theorem exec_ser16be (c : Color) (s : State) :
    exec (.ser16be c) s = .next { s with result := .bytes (ser16be c) } := rfl
@[simp] theorem exec_packmaskbit (p : Pix32) (s : State) :
    exec (.packmaskbit p) s = .next { s with result := .bit (maskBit p) } := rfl
@[simp] theorem exec_packrow (bits : List Bool) (s : State) :
    exec (.packrow bits) s = .next { s with result := .maskRow (packRow bits) } := rfl
theorem exec_packchunk (bits : List Bool) (s : State) :
    exec (.packchunk bits) s =
      if chunkLengthOk bits then .next { s with result := .maskByte (packChunk bits) }
      else .refused (.chunkLength bits.length) := rfl

/-! The fields of the state after a STEP. -/

@[simp] theorem stepped_width (p : Pix32) (s : State) : (stepped p s).width = s.width := by simp [stepped]
@[simp] theorem stepped_height (p : Pix32) (s : State) : (stepped p s).height = s.height := by simp [stepped]
@[simp] theorem stepped_dimBits (p : Pix32) (s : State) : (stepped p s).dimBits = s.dimBits := by simp [stepped]
@[simp] theorem stepped_img (p : Pix32) (s : State) : (stepped p s).img = s.img := by simp [stepped]
@[simp] theorem stepped_script (p : Pix32) (s : State) : (stepped p s).script = s.script := by simp [stepped]
@[simp] theorem stepped_tick (p : Pix32) (s : State) : (stepped p s).tick = s.tick := by simp [stepped]
@[simp] theorem stepped_result (p : Pix32) (s : State) : (stepped p s).result = s.result := by simp [stepped]
@[simp] theorem stepped_cbuf (p : Pix32) (s : State) : (stepped p s).cbuf = s.cbuf ++ ser16be (packPixel p) := by
  simp [stepped]
@[simp] theorem stepped_mbuf (p : Pix32) (s : State) :
    (stepped p s).mbuf = if chunkEnd s then s.mbuf ++ [mergeBit p s] else s.mbuf :=
  maskStep_mbuf p (colorAppend (packPixel p) s)
@[simp] theorem stepped_macc (p : Pix32) (s : State) :
    (stepped p s).macc = if chunkEnd s then 0 else mergeBit p s :=
  maskStep_macc p (colorAppend (packPixel p) s)
@[simp] theorem stepped_x (p : Pix32) (s : State) : (stepped p s).x = nextX s :=
  nextX_congr (by simp) (by simp) (by simp)
@[simp] theorem stepped_y (p : Pix32) (s : State) : (stepped p s).y = nextY s :=
  nextY_congr (by simp) (by simp) (by simp) (by simp) (by simp)
@[simp] theorem stepped_state (p : Pix32) (s : State) : (stepped p s).state = stepState s :=
  stepState_congr (by simp) (by simp) (by simp) (by simp) (by simp)
@[simp] theorem stepped_done (p : Pix32) (s : State) : (stepped p s).done = stepDone s :=
  stepDone_congr (by simp) (by simp) (by simp) (by simp) (by simp)

/-! The control vector and the decoder. -/

theorem ctl3_bits (rst start running : Bool) :
    (ctl3 rst start running).getLsbD 2 = rst ∧ (ctl3 rst start running).getLsbD 1 = start ∧
      (ctl3 rst start running).getLsbD 0 = running := by
  cases rst <;> cases start <;> cases running <;> decide

@[simp] theorem stepWord_rst (s : State) : (stepWord s).ctl.getLsbD 2 = (sample s).rst := (ctl3_bits _ _ _).1
@[simp] theorem stepWord_start (s : State) : (stepWord s).ctl.getLsbD 1 = (sample s).start := (ctl3_bits _ _ _).2.1
@[simp] theorem stepWord_busy (s : State) : (stepWord s).ctl.getLsbD 0 = busy s := (ctl3_bits _ _ _).2.2

/-- The operation of the coming step (rules R45, R76). -/
theorem decode_stepWord (s : State) :
    decode (stepWord s) =
      if (sample s).rst then .reset
      else if busy s then .step (pixData s)
      else if (sample s).start then
        .convert (fit s.dimBits (sample s).widthIn) (fit s.dimBits (sample s).heightIn)
      else .idle := by
  simp only [decode, stepWord_rst, stepWord_start, stepWord_busy]; rfl

theorem busy_iff (s : State) : busy s = true ↔ s.state = .run := by simp [busy]

theorem not_busy_iff (s : State) : busy s = false ↔ s.state = .idle := by
  cases h : s.state <;> simp [busy, h]

@[simp] theorem fit_fit (n v : Nat) : fit n (fit n v) = fit n v := Nat.mod_mod _ _

theorem fit_of_lt {n v : Nat} (h : v < 2 ^ n) : fit n v = v := Nat.mod_eq_of_lt h

theorem fit_lt (n v : Nat) : fit n v < 2 ^ n := Nat.mod_lt _ (Nat.two_pow_pos n)

/-- A scripted step samples its line. -/
theorem sample_of_script {s : State} {i : Inputs} {rest : List Inputs} (h : s.script = i :: rest) : sample s = i := by
  simp [sample, h]

/-- A line that declares no image leaves the source's image as it was. -/
theorem sourceImage_of_none {s : State} (h : (sample s).image = none) : sourceImage s = s.img := by
  rw [sourceImage, h]; rfl

/-- No step changes nothing. -/
theorem run_zero (s : State) : Sys2Proof.core.run 0 s = .next s := rfl

/-- Everything a step can do: it answers a next state, by one of the four step operations (rule R45). -/
theorem step_cases (s : State) :
    ((sample s).rst = true ∧
      step s = .next { clearFrame (sampled s) with width := 0, height := 0, state := .idle, done := false }) ∨
    ((sample s).rst = false ∧ s.state = .run ∧ step s = .next (stepped (pixData s) (sampled s))) ∨
    ((sample s).rst = false ∧ s.state = .idle ∧ (sample s).start = true ∧
      step s = .next (startFrame (fit s.dimBits (sample s).widthIn) (fit s.dimBits (sample s).heightIn) (sampled s))) ∨
    ((sample s).rst = false ∧ s.state = .idle ∧ (sample s).start = false ∧ step s = .next (sampled s)) := by
  unfold step
  rw [decode_stepWord]
  cases hr : (sample s).rst with
  | true => simp
  | false =>
    cases hb : busy s with
    | true => simp [(busy_iff s).mp hb]
    | false =>
      cases hst : (sample s).start <;> simp [(not_busy_iff s).mp hb]

/-- `k + 1` steps are one step and then `k`. -/
theorem run_succ (k : Nat) {s t : State} (h : step s = .next t) :
    Sys2Proof.core.run (k + 1) s = Sys2Proof.core.run k t := by
  have h' : Sys2Proof.core.step s = .next t := h
  simp only [Host.Core.run, h']

end Sys2Proof.Machine
end

