-- ==== Sys2Proof/Laws/Image.lean ====
section
/-! SUPPORT. The laws of the image source: reads after writes, and the canonical form kept by every operation. -/

namespace Sys2Proof.Machine

theorem coordLt_iff (a b : Coord) : coordLt a b = true ↔ a.1 < b.1 ∨ a.1 = b.1 ∧ a.2 < b.2 := by
  simp [coordLt]

theorem coordLt_trans {a b c : Coord} (hab : coordLt a b = true) (hbc : coordLt b c = true) : coordLt a c = true := by
  rw [coordLt_iff] at *; omega

theorem coordLt_of_not {c k : Coord} (hne : k ≠ c) (h : ¬ coordLt c k = true) : coordLt k c = true := by
  have : ¬ (k.1 = c.1 ∧ k.2 = c.2) := fun e => hne (Prod.ext e.1 e.2)
  rw [coordLt_iff] at *; omega

theorem imgGet_imgSet_same (im : Image) (c : Coord) (p : Pix32) : imgGet (imgSet im c p) c = some p := by
  induction im with
  | nil => simp [imgSet, imgGet]
  | cons kq rest ih =>
    obtain ⟨k, q⟩ := kq
    by_cases hk : k = c
    · simp [imgSet, imgGet, hk]
    · by_cases hlt : coordLt c k = true <;> simp [imgSet, imgGet, hk, hlt, ih]

theorem imgGet_imgSet_other (im : Image) {c c' : Coord} (p : Pix32) (h : c' ≠ c) :
    imgGet (imgSet im c p) c' = imgGet im c' := by
  induction im with
  | nil => simp [imgSet, imgGet, h.symm]
  | cons kq rest ih =>
    obtain ⟨k, q⟩ := kq
    by_cases hk : k = c
    · subst hk; simp [imgSet, imgGet, h.symm]
    · by_cases hlt : coordLt c k = true
      · simp [imgSet, imgGet, hk, hlt, h.symm]
      · simp [imgSet, imgGet, hk, hlt, ih]

/-- The coordinates of an image after a write are the old ones and the one written. -/
theorem mem_imgSet {im : Image} {c : Coord} {p : Pix32} {e : Coord × Pix32} (h : e ∈ imgSet im c p) :
    e = (c, p) ∨ e ∈ im := by
  induction im with
  | nil => simpa [imgSet] using h
  | cons kq rest ih =>
    obtain ⟨k, q⟩ := kq
    by_cases hk : k = c
    · simp [imgSet, hk] at h; aesop
    · by_cases hlt : coordLt c k = true <;> simp [imgSet, hk, hlt] at h <;> aesop

theorem imgSet_wf {im : Image} (c : Coord) (p : Pix32) (h : imgWf im) : imgWf (imgSet im c p) := by
  induction im with
  | nil => simp [imgSet, imgWf]
  | cons kq rest ih =>
    obtain ⟨k, q⟩ := kq
    obtain ⟨hhead, htail⟩ := List.pairwise_cons.mp h
    by_cases hk : k = c
    · subst hk
      simpa [imgSet, imgWf] using And.intro (fun a b hab => hhead (a, b) hab) htail
    · by_cases hlt : coordLt c k = true
      · simp only [imgSet, hk, hlt, if_false, if_true, imgWf]
        refine List.pairwise_cons.mpr ⟨?_, h⟩
        intro e he
        rcases List.mem_cons.mp he with rfl | he
        · exact hlt
        · exact coordLt_trans hlt (hhead e he)
      · simp only [imgSet, hk, hlt, if_false, imgWf]
        refine List.pairwise_cons.mpr ⟨?_, ih htail⟩
        intro e he
        rcases mem_imgSet he with rfl | he
        · exact coordLt_of_not hk hlt
        · exact hhead e he

theorem reset_img_wf : imgWf State.reset.img := List.Pairwise.nil

theorem placeWord_img_wf (w : StepWord) {s : State} (h : imgWf s.img) : imgWf (placeWord w s).img := by
  unfold placeWord
  dsimp only
  split
  · exact imgSet_wf _ _ h
  · exact h

/-- The image presented with a step's inputs is canonical, if those the environment holds are. -/
theorem sourceImage_wf {s : State} (h : Safety.ImagesWf s) : imgWf (sourceImage s) := by
  unfold sourceImage sample
  cases hs : s.script with
  | nil => simpa using h.1
  | cons i rest =>
    cases hi : i.image with
    | none => simpa [hi] using h.1
    | some im => simpa [hi] using h.2 i (by simp [hs]) im hi

theorem sampled_images_wf {s : State} (h : Safety.ImagesWf s) : Safety.ImagesWf (sampled s) :=
  ⟨sourceImage_wf h, fun i hi => h.2 i (List.mem_of_mem_tail hi)⟩

end Sys2Proof.Machine
end

