-- ==== Sys2Proof/Laws/Mask.lean ====
section
/-! SUPPORT. The laws of the mask encoder: which bit of the packed byte is which pixel's, and how a chunk grows by one bit. -/

namespace Sys2Proof.Machine

/-- `placeBit m j` has its one bit at `7 - j` (rules R44, R57). -/
theorem placeBit_getLsbD (m : Bool) (j i : Nat) (hi : i < 8) : (placeBit m j).getLsbD i = (decide (i = 7 - j) && m) := by
  cases m
  · simp [placeBit]
  · have hj : 7 - j < 8 := by omega
    unfold placeBit
    generalize 7 - j = k at hj ⊢
    clear j
    revert i k
    decide

theorem packChunkFrom_append (j : Nat) (bits : List Bool) (m : Bool) :
    packChunkFrom j (bits ++ [m]) = packChunkFrom j bits ||| placeBit m (j + bits.length) := by
  induction bits generalizing j with
  | nil => simp [packChunkFrom]
  | cons b bs ih =>
    simp only [List.cons_append, packChunkFrom, ih, List.length_cons]
    rw [show j + 1 + bs.length = j + (bs.length + 1) by omega, BitVec.or_assoc]

/-- A chunk grows by one bit as a STEP's accumulator does (rule R57's last clause). -/
theorem packChunk_append (bits : List Bool) (m : Bool) :
    packChunk (bits ++ [m]) = packChunk bits ||| placeBit m bits.length := by
  simpa [packChunk] using packChunkFrom_append 0 bits m

/-- Bit `7 - j` of the loop from pixel `k` on is pixel `j`'s bit; a bit of no pixel is 0. -/
theorem packChunkFrom_getLsbD (bits : List Bool) :
    ∀ k j, k + bits.length ≤ 8 → j < 8 →
      (packChunkFrom k bits).getLsbD (7 - j) = (decide (k ≤ j) && bits.getD (j - k) false) := by
  induction bits with
  | nil => intro k j _ _; simp [packChunkFrom]
  | cons m ms ih =>
    intro k j hk hj
    have hk' : k + (ms.length + 1) ≤ 8 := hk
    simp only [packChunkFrom, BitVec.getLsbD_or, ih (k + 1) j (by omega) hj,
      placeBit_getLsbD m k (7 - j) (by omega)]
    rcases Nat.lt_trichotomy k j with h | h | h
    · have : j - k = (j - (k + 1)) + 1 := by omega
      rw [this]
      simp [show ¬ 7 - j = 7 - k by omega, show k + 1 ≤ j by omega, show k ≤ j by omega]
    · subst h; simp
    · simp [show ¬ 7 - j = 7 - k by omega, show ¬ k + 1 ≤ j by omega, show ¬ k ≤ j by omega]

/-- The bits of a packed chunk (rules R28, R44, R57): pixel `j` at bit `7 - j`, padding 0. -/
theorem packChunk_getLsbD {bits : List Bool} (h : bits.length ≤ 8) {j : Nat} (hj : j < 8) :
    (packChunk bits).getLsbD (7 - j) = bits.getD j false := by
  simpa [packChunk] using packChunkFrom_getLsbD bits 0 j (by omega) hj

theorem chunk_length_le (bits : List Bool) (j : Nat) : (chunk bits j).length ≤ 8 := by simp [chunk]

theorem chunk_getD (bits : List Bool) (j k : Nat) (hk : k < 8) :
    (chunk bits j).getD k false = bits.getD (8 * j + k) false := by
  simp [chunk, List.getD_eq_getElem?_getD, List.getElem?_take_of_lt hk, List.getElem?_drop]

@[simp] theorem packRow_length (bits : List Bool) : (packRow bits).length = stride bits.length := by simp [packRow]

theorem packRow_getElem? (bits : List Bool) {j : Nat} (hj : j < stride bits.length) :
    (packRow bits)[j]? = some (packChunk (chunk bits j)) := by
  simp [packRow, hj]

@[simp] theorem packRow_nil : packRow [] = [] := rfl

end Sys2Proof.Machine
end

