-- ==== Sys2Proof/Laws/PerInstr.lean ====
section
/-! SUPPORT. Statements made per instruction: a well-formed operation's word fits on the wires. -/

namespace Sys2Proof.Laws.EncodeFits

/-- The word of a well-formed operation, where it has one, has no bit above the last wire. -/
def Statement (i : Instr) : Prop := ∀ n w, i.wf n = true → encode n i = some w → w < wordBound n

/-- The common part: an operation's wires fit their ports, so the number read off them is in range. -/
theorem of_wires (i : Instr) : Statement i := by
  intro n w hwf hw
  obtain ⟨s, hs, rfl⟩ := Option.map_eq_some_iff.mp hw
  exact StepWord.toBits_lt (StepWord.fits_of_wf hwf hs)

theorem reset : Statement .reset := of_wires _
theorem convert (widthIn heightIn : Nat) : Statement (.convert widthIn heightIn) := of_wires _
theorem step (pixData : Pix32) : Statement (.step pixData) := of_wires _
theorem idle : Statement .idle := of_wires _
theorem packcolor (p : Pix32) : Statement (.packcolor p) := of_wires _
theorem ser16be (c : Color) : Statement (.ser16be c) := of_wires _
theorem packmaskbit (p : Pix32) : Statement (.packmaskbit p) := of_wires _
theorem packchunk (bits : List Bool) : Statement (.packchunk bits) := of_wires _
theorem packrow (bits : List Bool) : Statement (.packrow bits) := of_wires _

end Sys2Proof.Laws.EncodeFits
end

