-- ==== Sys2Proof/Tests/Slice0.lean ====
section
/-! SUPPORT. The model's own tests: words and vectors of 95_test_vectors.md, the WellFormed smoke, and a witness for the hypotheses of every statement. -/

namespace Sys2Proof.Tests

open Sys2Proof Sys2Proof.Machine Sys2Proof.Safety

/-! ### WellFormed: an ill-formed term for each check -/

theorem test_wf_width_refused : (Instr.convert 65536 2).wf 16 = false := by decide
theorem test_wf_height_refused : (Instr.convert 10 65536).wf 16 = false := by decide
theorem test_wf_empty_chunk_refused : (Instr.packchunk []).wf 16 = false := by decide
theorem test_wf_long_chunk_refused : (Instr.packchunk (List.replicate 9 true)).wf 16 = false := by decide
theorem test_wf_accepts : (Instr.convert 65535 0).wf 16 = true ∧ (Instr.packchunk (List.replicate 8 true)).wf 16 = true := by
  decide

/-! ### Decoding: the words of rule R45's table, written out bit by bit -/

theorem test_decode_reset : [0b100, 0b101, 0b110, 0b111].map (decodeTableWord 8) = List.replicate 4 (some .reset) := by
  decide
theorem test_decode_convert : decodeTableWord 8 0b010 = some (.convert 0 0) := by decide
theorem test_decode_step : [0b001, 0b011].map (decodeTableWord 8) = List.replicate 2 (some (.step 0)) := by decide
theorem test_decode_idle : decodeTableWord 8 0b000 = some .idle := by decide
/-- Program P3 step 2 (`W=000A H=0002`) and step 10 (`P=123456FF`), on the model's wires. -/
theorem test_decode_operands :
    decodeBits 16 (0b010 + 0x000A * 2 ^ 3 + 0x0002 * 2 ^ 19) = .ok (.convert 10 2) ∧
    decodeBits 16 (0b001 + 0x123456FF * 2 ^ 35) = .ok (.step 0x123456FF#32) := by decide
theorem test_decode_no_such_wire : decodeBits 16 (2 ^ 67) = .error .noSuchWire := by decide

/-- Each table row, placed as the first instruction after reset, is what the next step runs. -/
theorem test_first_step_reset : step (State.reset.withFetchWord 8 0b100) = exec .reset { State.reset with tick := 1 } := by
  rfl
theorem test_first_step_convert :
    step (State.reset.withFetchWord 8 0b010) = exec (.convert 0 0) { State.reset with tick := 1 } := by rfl
theorem test_first_step_idle : step (State.reset.withFetchWord 8 0b000) = exec .idle { State.reset with tick := 1 } := by
  rfl
theorem test_first_step_step :
    step (State.reset.withFetchWord 8 0b001) =
      exec (.step 0) { State.reset with state := .run, img := [((0, 0), 0)], tick := 1 } := by rfl

/-! ### One step each: the vectors T of 95_test_vectors.md section 2.7, on states built by a helper -/

/-- A block at the default DIM_BITS, with as many buffer bytes as the vectors name, all 0. -/
def block (w h x y : Nat) (macc : Byte) (st : RunState) (done : Bool) (nc nm : Nat) : State :=
  { State.reset with
    width := w, height := h, x := x, y := y, macc := macc, state := st, done := done,
    cbuf := List.replicate nc 0, mbuf := List.replicate nm 0 }

/-- A block with one step scripted: the control inputs, the dimension inputs and the pixel at the scan position. -/
def scripted (s : State) (rst start : Bool) (w h : Nat) (p : Pix32) : State :=
  { s with script := [⟨rst, start, w, h, some [((s.y, s.x), p)]⟩] }

/-- The vectors' view of a state, the buffers by their lengths. -/
structure View where
  width : Nat
  height : Nat
  x : Nat
  y : Nat
  macc : Byte
  state : RunState
  done : Bool
  colorLength : Nat
  maskLength : Nat
  deriving DecidableEq, Repr

/-- The view of the state after an outcome. -/
def view : Out → Option View
  | .next t => some ⟨t.width, t.height, t.x, t.y, t.macc, t.state, t.done, t.cbuf.length, t.mbuf.length⟩
  | .fault _ => none
  | .refused _ => none

/-- The last color bytes and mask byte appended. -/
def tails : Out → Option (List Byte × Option Byte)
  | .next t => some (t.cbuf.drop (t.cbuf.length - 2), t.mbuf.getLast?)
  | .fault _ => none
  | .refused _ => none

/-- T1. -/
theorem test_idle_T1 :
    view (step (scripted (block 0 0 0 0 0 .idle false 0 0) false false 0 0 0)) =
      some ⟨0, 0, 0, 0, 0, .idle, false, 0, 0⟩ := by decide
/-- T3: a zero width completes at once. -/
theorem test_convert_T3 :
    view (step (scripted (block 2 1 0 0 0 .idle true 4 1) false true 0 5 0)) =
      some ⟨0, 5, 0, 0, 0, .idle, true, 0, 0⟩ := by decide
/-- T4: DONE cleared, buffers emptied. -/
theorem test_convert_T4 :
    view (step (scripted (block 2 1 0 0 0 .idle true 4 1) false true 3 2 0)) =
      some ⟨3, 2, 0, 0, 0, .run, false, 0, 0⟩ := by decide
/-- T6: a row end with a padded chunk; the color bytes `08 21` and the mask byte `C0`. -/
theorem test_step_T6 :
    view (step (scripted (block 10 2 9 0 0x80 .run false 18 1) false false 0 0 0x080408FF#32)) =
      some ⟨10, 2, 0, 1, 0, .run, false, 20, 2⟩ ∧
    tails (step (scripted (block 10 2 9 0 0x80 .run false 18 1) false false 0 0 0x080408FF#32)) =
      some ([0x08, 0x21], some 0xC0) := by decide
/-- T7 and T8: the last pixel ends the frame; a `start` in mid-frame is ignored. -/
theorem test_step_T7_T8 :
    view (step (scripted (block 10 2 9 1 0 .run false 38 3) false false 0 0 0xF8FCF880#32)) =
      some ⟨10, 2, 0, 0, 0, .idle, true, 40, 4⟩ ∧
    tails (step (scripted (block 3 2 2 0 0x40 .run false 4 0) false true 7 7 0xFF0000FE#32)) =
      some ([0xF8, 0x00], some 0x60) := by decide
/-- T10: RESET in mid-frame, with `start` asserted. -/
theorem test_reset_T10 :
    view (step (scripted (block 9 1 5 0 0xF8 .run false 10 0) true true 0 0 0)) =
      some ⟨0, 0, 0, 0, 0, .idle, false, 0, 0⟩ := by decide
/-- T5's outputs in the step. -/
theorem test_ports_T5 :
    ports (scripted (block 10 2 7 0 0xFE .run false 14 0) false false 0 0 0x123456FF#32) =
      ⟨true, false, true, 0, 7, true, 0x11AA, true, 0xFF⟩ := by decide

/-! ### The datapath functions: vectors PC, SE, PM, K, M and F -/

/-- What a datapath function delivered. -/
def delivered : Out → Option Result
  | .next t => some t.result
  | .fault _ => none
  | .refused _ => none

/-- PC19 and PC7. -/
theorem test_packcolor :
    delivered (exec (.packcolor (pix32 18 52 86 0)) .reset) = some (.color 0x11AA) ∧
    delivered (exec (.packcolor (pix32 8 4 8 255)) .reset) = some (.color 0x0821) := by decide
/-- PC6: truncation, not rounding. -/
theorem test_packcolor_truncates : delivered (exec (.packcolor (pix32 7 3 7 255)) .reset) = some (.color 0) := by decide
/-- SE3 and PC4's bytes. -/
theorem test_ser16be :
    delivered (exec (.ser16be 0x1234) .reset) = some (.bytes [0x12, 0x34]) ∧
    delivered (exec (.ser16be 0x07E0) .reset) = some (.bytes [0x07, 0xE0]) := by decide
/-- PM2 and PM8. -/
theorem test_packmaskbit :
    delivered (exec (.packmaskbit (pix32 0 0 0 1)) .reset) = some (.bit true) ∧
    delivered (exec (.packmaskbit (pix32 255 255 255 0)) .reset) = some (.bit false) := by decide
/-- K3 and K13. -/
theorem test_packchunk :
    delivered (exec (.packchunk [true, false]) .reset) = some (.maskByte 0x80) ∧
    delivered (exec (.packchunk [false, false, false, false, false, false, true]) .reset) = some (.maskByte 0x02) := by
  decide
/-- M10b and M16b. -/
theorem test_packrow :
    delivered (exec (.packrow ((List.range 10).map fun c => c == 0 || c == 9)) .reset) = some (.maskRow [0x80, 0x40]) ∧
    delivered (exec (.packrow ((List.range 16).map fun c => c == 7 || c == 8)) .reset) = some (.maskRow [0x01, 0x80]) := by
  decide

/-- The image of vector F6. -/
def imageF6 (row col : Nat) : Pix32 :=
  match row, col with
  | 0, 0 => pix32 255 255 255 0
  | 0, 1 => pix32 0 0 0 1
  | 0, 2 => pix32 255 0 0 254
  | 1, 0 => pix32 0 255 0 0
  | 1, 1 => pix32 0 0 255 127
  | _, _ => pix32 123 45 67 0

/-- F6. -/
theorem test_convert_F6 :
    convert 3 2 imageF6 =
      ([0xFF, 0xFF, 0x00, 0x00, 0xF8, 0x00, 0x07, 0xE0, 0x00, 0x1F, 0x79, 0x68], [0x60, 0x40]) := by decide

/-! ### Witnesses: states and operands that meet the hypotheses of the statements -/

/-- The image source's image for the 2 by 1 frame of vector F1, and the same image as a function. -/
def imageF1 : Image := [((0, 0), 0xFF0000FF#32), ((0, 1), 0#32)]
def fnF1 (row col : Nat) : Pix32 := if row = 0 ∧ col = 0 then 0xFF0000FF#32 else 0#32

/-- Program P1 after its RESET: the 2 by 1 frame scripted. -/
def p1 : State :=
  { State.reset with
    script := [⟨false, true, 2, 1, some imageF1⟩, ⟨false, false, 0, 0, none⟩, ⟨false, false, 0, 0, none⟩] }

/-- A running block in the middle of a 10 by 2 frame: `n` STEPs done, accumulator as given, one step scripted. -/
def mid (n : Nat) (macc : Byte) : State :=
  scripted (block 10 2 (n % 10) (n / 10) macc .run false (2 * n) (n / 10 * 2 + n % 10 / 8)) false false 0 0 0xFF#32

/-- An idle block after a 2 by 1 frame, with one step scripted. -/
def idleAfter (rst start : Bool) (w h : Nat) : State := scripted (block 2 1 0 0 0 .idle true 4 1) rst start w h 0

/-- StepRunsTheDecodedInstruction. -/
theorem witness_step_runs :
    decodeBits p1.dimBits ((stepWord { p1 with img := imageF1 }).toBits p1.dimBits) = .ok (.convert 2 1) ∧
      (Instr.convert 2 1).wf p1.dimBits = true := by decide
/-- PlacedWordIsTheNextInstruction. -/
theorem witness_placed : decodeBits State.reset.dimBits (0b010 % 2 ^ 8) = .ok (.convert 0 0) := by decide
/-- DecodeOfEncodeIsTheInstruction, both clauses, at the boundary of the operands. -/
theorem witness_encode :
    (Instr.convert 65535 65535).wf 16 = true ∧ (Instr.convert 65535 65535).isStepOp = true ∧
      (Instr.packchunk [true]).wf 16 = true ∧ (Instr.packchunk [true]).isStepOp = false := by decide
/-- EveryWireValueDecodes, both clauses where they meet. -/
theorem witness_wires : wordBound 16 - 1 < wordBound 16 ∧ wordBound 16 ≤ wordBound 16 := by decide
/-- ResetGivesTheResetValues (rst = 1), ControlVectorSelectsTheOperation's four rows, IdleChangesNothing,
StartAcceptsTheFrame's and StepProcessesOnePixel's second clauses, BuffersOnlyGrow, DoneFlagTransitions. -/
theorem witness_rows :
    (sample (idleAfter true false 0 0)).rst = true ∧
    ((sample (idleAfter false true 3 2)).rst = false ∧ (idleAfter false true 3 2).state = .idle ∧
      (sample (idleAfter false true 3 2)).start = true) ∧
    ((sample (mid 7 0xFE)).rst = false ∧ (mid 7 0xFE).state = .run) ∧
    ((sample (idleAfter false false 0 0)).rst = false ∧ (idleAfter false false 0 0).state = .idle ∧
      (sample (idleAfter false false 0 0)).start = false) := by decide
/-- StartAcceptsTheFrame's first clause at the widest operand, DegenerateFrameIsEmptyAndDone with either dimension 0. -/
theorem witness_start :
    (Instr.convert 65535 1).wf State.reset.dimBits = true ∧ (Instr.convert 0 65535).wf State.reset.dimBits = true ∧
      (Instr.convert 65535 0).wf State.reset.dimBits = true := by decide
/-- StepProcessesOnePixel, StepKeepsTheStateRules, ScanIsRowMajor, QueriesStayInsideTheImage, RunFlagTransitions: legal
running states at the first pixel, inside a chunk, at a chunk end, at a row end and at the last pixel. -/
theorem witness_running :
    StateRules (mid 0 0) ∧ StateRules (mid 3 0xE0) ∧ StateRules (mid 7 0xFE) ∧ StateRules (mid 9 0x80) ∧
      StateRules (mid 19 0x80) := by
  refine ⟨?_, ?_, ?_, ?_, ?_⟩ <;> unfold StateRules <;> refine ⟨?_, ?_, ?_, ?_⟩ <;> decide
/-- The same statements' cases. -/
theorem witness_running_cases :
    ((mid 9 0x80).x = (mid 9 0x80).width - 1 ∧ (mid 9 0x80).y < (mid 9 0x80).height - 1) ∧
    ((mid 19 0x80).x = (mid 19 0x80).width - 1 ∧ (mid 19 0x80).y = (mid 19 0x80).height - 1) ∧
    (ports (mid 7 0xFE)).pixReq = true ∧ (ports (mid 7 0xFE)).maskValid = true := by decide
/-- The same statements, idle states. -/
theorem witness_idle : StateRules State.reset ∧ StateRules (idleAfter false true 3 2) := by
  refine ⟨?_, ?_⟩ <;> unfold StateRules <;> refine ⟨?_, ?_, ?_, ?_⟩ <;> decide
/-- StepFrame: an offset below those stored to, at a chunk end. -/
theorem witness_step_frame :
    0 ≠ (mid 9 0x80).cbuf.length ∧ 0 ≠ (mid 9 0x80).cbuf.length + 1 ∧ chunkEnd (mid 9 0x80) = true ∧
      0 ≠ (mid 9 0x80).mbuf.length := by decide
/-- IdleChangesNothing's third clause. -/
theorem witness_idle_run :
    (idleAfter false false 0 0).state = .idle ∧ 1 ≤ (idleAfter false false 0 0).script.length ∧
      ∀ i ∈ (idleAfter false false 0 0).script.take 1, i.rst = false ∧ i.start = false := by decide
/-- StartIgnoredWhileRunning and DimensionsSampledAtStartOnly: two lines that differ in `start` and the dimensions. -/
theorem witness_ignored :
    (mid 3 0xE0).state = .run ∧ (⟨false, true, 7, 7, none⟩ : Inputs).rst = false ∧
      (⟨false, false, 0, 0, none⟩ : Inputs).rst = false ∧ (⟨true, true, 7, 7, none⟩ : Inputs).rst = true ∧
      (⟨false, false, 0, 0, none⟩ : Inputs).start = false := by decide
/-- The same statements' other clauses: a `start` request on a running block (vector T8). -/
theorem witness_request :
    (sample (scripted (mid 3 0xE0) false true 7 7 0)).rst = false ∧
      (sample (scripted (mid 3 0xE0) false true 7 7 0)).start = true ∧
      (scripted (mid 3 0xE0) false true 7 7 0).state = .run := by decide
/-- EveryColorWordHasItsPreimages: the monotony clauses across a bucket's boundary. -/
theorem witness_monotone : (7 : Byte) ≤ 8 ∧ (3 : Byte) ≤ 4 := by decide
/-- ChunkBitsMostSignificantFirst and ChunkReachesExactlyThePaddedBytes at both ends, ChunkOutsideItsDomainIsRefused just
outside. -/
theorem witness_chunks :
    (1 ≤ [true].length ∧ [true].length ≤ 8) ∧ (1 ≤ (List.replicate 8 true).length ∧ (List.replicate 8 true).length ≤ 8) ∧
      ([] : List Bool).length = 0 ∧ 9 ≤ (List.replicate 9 true).length := by decide
/-- RowIsPackedInChunks: the second chunk of a row of nine. -/
theorem witness_row : 1 < ((List.replicate 9 true).length + 7) / 8 := by decide
/-- ColorBytesAtTheirOffsets, MaskRowsAlignedAndPadded: the last pixel of a 9 by 2 frame, whose row has one real pixel and
seven padding bits in its last byte. -/
theorem witness_pixels : (1 < 2 ∧ 8 < 9) ∧ 9 % 8 ≠ 0 ∧ 0 < 9 % 8 ∧ 6 < 8 - 9 % 8 ∧ 1 < (9 + 7) / 8 := by decide
/-- RowsAndPixelsAreIndependent and ColorAndAlphaAreIndependent: images that agree in color and differ in alpha, and the
other way round; MaskRowsAlignedAndPadded: images that agree in one row and differ in another. -/
theorem witness_images :
    (red (pix32 1 2 3 4) = red (pix32 1 2 3 0) ∧ green (pix32 1 2 3 4) = green (pix32 1 2 3 0) ∧
      blue (pix32 1 2 3 4) = blue (pix32 1 2 3 0) ∧ alpha (pix32 1 2 3 4) ≠ alpha (pix32 1 2 3 0)) ∧
    alpha (pix32 1 2 3 4) = alpha (pix32 5 6 7 4) ∧
    (∀ col, col < 3 → imageF6 0 col = (fun row c => if row = 0 then imageF6 0 c else 0#32) 0 col) := by decide
/-- NothingFaults' third clause. -/
theorem witness_well_formed : (Instr.packchunk (List.replicate 8 false)).wf 16 = true := by decide
/-- ImagesStayCanonicalAndUnwritten. -/
theorem witness_images_wf :
    ImagesWf p1 ∧ exec .idle p1 = .next p1 ∧ imgWf imageF1 ∧ ((0, 0) : Coord) ≠ (0, 1) := by
  refine ⟨⟨by decide, fun i hi im him => ?_⟩, rfl, by decide, by decide⟩
  simp only [p1, List.mem_cons, List.not_mem_nil, or_false] at hi
  rcases hi with rfl | rfl | rfl <;> simp at him
  subst him; decide
/-- OutputSignals' clauses, and UnansweredQueryIsPackedAsItComes: a running block whose source holds no pixel there. -/
theorem witness_unanswered :
    (ports (mid 7 0xFE)).colValid = true ∧
    ({ mid 7 0xFE with script := [⟨false, false, 0, 0, some []⟩] } : State).state = .run ∧
      imgGet (sourceImage { mid 7 0xFE with script := [⟨false, false, 0, 0, some []⟩] }) (0, 7) = none := by decide
/-- NoStateSurvivesStart: two different blocks with the same DIM_BITS. -/
theorem witness_survivors : (mid 7 0xFE).dimBits = State.reset.dimBits ∧ mid 7 0xFE ≠ State.reset := by decide
/-- FrameEndsWithConvert, FrameInProgressHoldsPrefixes, FrameReadsEachPixelOnceInOrder: program P1's frame. -/
theorem witness_frame : FrameAhead p1 2 1 fnF1 ∧ 1 < 2 * 1 := by
  refine ⟨⟨⟨rfl, by decide, by decide, _, rfl⟩, ⟨by decide, by decide⟩, fun row col hr hc => ?_⟩, by decide⟩
  have hrow : row = 0 := by omega
  subst hrow
  interval_cases col <;> decide
/-- The same statements, a frame without pixels. -/
theorem witness_empty_frame :
    FrameAhead { State.reset with script := [⟨false, true, 0, 5, none⟩] } 0 5 fnF1 := by
  refine ⟨⟨rfl, by decide, by decide, _, rfl⟩, ⟨by decide, by decide⟩, fun row col hr hc => ?_⟩
  omega
/-- ScriptLinesPerformTheirOperations: each line in a state where it is legal. -/
theorem witness_script :
    (ScriptLine.convert 3 2).legal State.reset = true ∧ ScriptLine.idle.legal State.reset = true ∧
      ScriptLine.step.legal (mid 3 0xE0) = true ∧ (ScriptLine.stepS 7 7).legal (mid 3 0xE0) = true := by decide
/-- RunAndFramePseudoOperations: a legal state whose script is a `RUN`. -/
theorem witness_run_legal : StateRules { mid 18 0 with script := runLines (mid 18 0) ++ [] } := by
  unfold StateRules; refine ⟨?_, ?_, ?_, ?_⟩ <;> decide
/-- RunAndFramePseudoOperations: `RUN` two pixels before the end of a frame, and `FRAME 2 1` from IDLE. -/
theorem witness_pseudo :
    ((mid 18 0).state = .run ∧
      runLines { mid 18 0 with script := runLines (mid 18 0) } = runLines (mid 18 0) ∧ stepsLeft (mid 18 0) = 2) ∧
    State.reset.state = .idle ∧ (Instr.convert 2 1).wf State.reset.dimBits = true ∧ (frameLines 2 1).length = 3 := by
  decide

end Sys2Proof.Tests
end

section
/-! ## The state: what every step keeps, writes and shows on the ports (10_state.md) -/

/-! ### The wires of a step, read back -/

namespace Sys2Proof

/-- Wires that fit their ports are read back from the number they make. -/
theorem StepWord.ofBits_toBits {n : Nat} {s : StepWord} (h : s.fits n) : StepWord.ofBits n (s.toBits n) = s := by
  obtain ⟨hw, hh⟩ := h
  have hN := Nat.two_pow_pos n
  have hctl : BitVec.ofNat 3 (s.toBits n) = s.ctl := by
    apply BitVec.eq_of_toNat_eq
    have := s.ctl.isLt
    simp only [toBits, BitVec.toNat_ofNat]; omega
  have hops : s.toBits n / 8 = s.widthIn + 2 ^ n * (s.heightIn + 2 ^ n * s.pixData.toNat) := by
    have := s.ctl.isLt
    unfold toBits; omega
  have hhigh : s.toBits n / 8 / 2 ^ n = s.heightIn + 2 ^ n * s.pixData.toNat := by
    rw [hops, Nat.add_mul_div_left _ _ hN, Nat.div_eq_of_lt hw, Nat.zero_add]
  have hpix : s.toBits n / 8 / 2 ^ n / 2 ^ n = s.pixData.toNat := by
    rw [hhigh, Nat.add_mul_div_left _ _ hN, Nat.div_eq_of_lt hh, Nat.zero_add]
  have hwidth : s.toBits n / 8 % 2 ^ n = s.widthIn := by
    rw [hops, Nat.add_mul_mod_self_left, Nat.mod_eq_of_lt hw]
  have hheight : s.toBits n / 8 / 2 ^ n % 2 ^ n = s.heightIn := by
    rw [hhigh, Nat.add_mul_mod_self_left, Nat.mod_eq_of_lt hh]
  simp only [ofBits, hctl, hwidth, hheight, hpix, BitVec.ofNat_toNat, BitVec.setWidth_eq]

/-- The decoder reads wires that fit their ports as the table of rule R45 does. -/
theorem decodeBits_toBits {n : Nat} {s : StepWord} (h : s.fits n) : decodeBits n (s.toBits n) = .ok (decode s) := by
  rw [decodeBits, if_pos (StepWord.toBits_lt h), StepWord.ofBits_toBits h]

end Sys2Proof

namespace Sys2Proof.Machine

open Sys2Proof.Safety

/-- The dimension inputs of a step fit their ports, whatever the environment scripts (log entry 5). -/
theorem stepWord_fits (s : State) : (stepWord s).fits s.dimBits := ⟨fit_lt _ _, fit_lt _ _⟩

/-! ### The conditions a STEP tests, as propositions -/

theorem lastCol_iff (s : State) : lastCol s = true ↔ s.x + 1 = s.width := by simp [lastCol]

theorem lastRow_iff (s : State) : lastRow s = true ↔ s.y + 1 = s.height := by simp [lastRow]

theorem chunkEnd_iff (s : State) : chunkEnd s = true ↔ s.x % 8 = 7 ∨ s.x + 1 = s.width := by
  simp [chunkEnd, lastCol_iff]

theorem lastPixel_iff (s : State) : lastPixel s = true ↔ s.x + 1 = s.width ∧ s.y + 1 = s.height := by
  simp [lastPixel, lastCol_iff, lastRow_iff]

theorem degenerate_iff (w h : Nat) : degenerate w h = true ↔ w = 0 ∨ h = 0 := by simp [degenerate]

theorem startDone_iff (w h : Nat) : startDone w h = true ↔ w = 0 ∨ h = 0 := degenerate_iff w h

theorem startState_eq_run_iff (w h : Nat) : startState w h = .run ↔ w ≠ 0 ∧ h ≠ 0 := by
  rw [← not_or, ← degenerate_iff]
  cases hd : degenerate w h <;> simp [startState, hd]

/-- In a legal running state the last pixel is the one rule R11 names. -/
theorem lastPixel_iff_of_scanInside {s : State} (hin : ScanInside s) (hrun : s.state = .run) :
    lastPixel s = true ↔ s.y = s.height - 1 ∧ s.x = s.width - 1 := by
  obtain ⟨_, _, hx, hy, _⟩ := hin hrun
  rw [lastPixel_iff]; omega

theorem stepState_eq_idle_iff {s : State} (hrun : s.state = .run) : stepState s = .idle ↔ lastPixel s = true := by
  cases h : lastPixel s <;> simp [stepState, h, hrun]

theorem stepDone_iff {s : State} (hdone : s.done = false) : stepDone s = true ↔ lastPixel s = true := by
  simp [stepDone, hdone]

/-- Where a STEP takes the scan from a legal running state (rules R64, R66): along the row, to the next row, or, at
the last pixel, back to the origin with the frame ended. -/
theorem stepped_scan_cases (p : Pix32) {s : State} (hfits : Fits s) (hin : ScanInside s) (hrun : s.state = .run) :
    (s.x + 1 < s.width ∧
      (stepped p s).x = s.x + 1 ∧ (stepped p s).y = s.y ∧ (stepped p s).state = .run ∧ (stepped p s).done = false) ∨
    (s.x + 1 = s.width ∧ s.y + 1 < s.height ∧
      (stepped p s).x = 0 ∧ (stepped p s).y = s.y + 1 ∧ (stepped p s).state = .run ∧ (stepped p s).done = false) ∨
    (s.x + 1 = s.width ∧ s.y + 1 = s.height ∧
      (stepped p s).x = 0 ∧ (stepped p s).y = 0 ∧ (stepped p s).state = .idle ∧ (stepped p s).done = true) := by
  obtain ⟨_, hwidth, hheight, _, _⟩ := hfits
  obtain ⟨_, _, hx, hy, hdone⟩ := hin hrun
  by_cases hcol : s.x + 1 = s.width
  · by_cases hrow : s.y + 1 = s.height
    · right; right
      simp [nextX, nextY, stepState, stepDone, lastPixel, lastCol, lastRow, hcol, hrow]
    · right; left
      have hfit : fit s.dimBits (s.y + 1) = s.y + 1 := fit_of_lt (by omega)
      have hlt : s.y + 1 < s.height := by omega
      simp [nextX, nextY, stepState, stepDone, lastPixel, lastCol, lastRow, hcol, hrow, hfit, hlt, hrun, hdone]
  · left
    have hfit : fit s.dimBits (s.x + 1) = s.x + 1 := fit_of_lt (by omega)
    have hlt : s.x + 1 < s.width := by omega
    simp [nextX, nextY, stepState, stepDone, lastPixel, lastCol, hcol, hfit, hlt, hrun, hdone]

/-! ### A step, by the inputs that select it (rules R45, R76) -/

theorem step_of_rst {s : State} (h : (sample s).rst = true) :
    step s = .next { clearFrame (sampled s) with width := 0, height := 0, state := .idle, done := false } := by
  rw [step, decode_stepWord]; simp [h]

theorem step_of_run {s : State} (hr : (sample s).rst = false) (hrun : s.state = .run) :
    step s = .next (stepped (pixData s) (sampled s)) := by
  rw [step, decode_stepWord]; simp [hr, (busy_iff s).mpr hrun]

theorem step_of_start {s : State} (hr : (sample s).rst = false) (hidle : s.state = .idle)
    (hstart : (sample s).start = true) :
    step s = .next (startFrame (fit s.dimBits (sample s).widthIn) (fit s.dimBits (sample s).heightIn) (sampled s)) := by
  rw [step, decode_stepWord]; simp [hr, (not_busy_iff s).mpr hidle, hstart]

theorem step_of_idle {s : State} (hr : (sample s).rst = false) (hidle : s.state = .idle)
    (hstart : (sample s).start = false) : step s = .next (sampled s) := by
  rw [step, decode_stepWord]; simp [hr, (not_busy_iff s).mpr hidle, hstart]

/-! Presenting the inputs leaves what a STEP computes from the block's own state as it was. -/

@[simp] theorem chunkEnd_sampled (s : State) : chunkEnd (sampled s) = chunkEnd s := rfl
@[simp] theorem mergeBit_sampled (p : Pix32) (s : State) : mergeBit p (sampled s) = mergeBit p s := rfl
@[simp] theorem stepState_sampled (s : State) : stepState (sampled s) = stepState s := rfl
@[simp] theorem stepDone_sampled (s : State) : stepDone (sampled s) = stepDone s := rfl

/-- The fields a STEP writes, all at once: the others are as they were. -/
theorem stepped_eq (p : Pix32) (s : State) :
    stepped p s =
      { s with
        cbuf := s.cbuf ++ ser16be (packPixel p)
        mbuf := if chunkEnd s then s.mbuf ++ [mergeBit p s] else s.mbuf
        macc := if chunkEnd s then 0 else mergeBit p s
        x := nextX s, y := nextY s, state := stepState s, done := stepDone s } := by
  unfold stepped maskStep
  rw [chunkEnd_colorAppend]
  cases chunkEnd s <;> rfl

/-! ### The invariant of rule R17, operation by operation -/

/-- The invariant of a running block: rule R17 (b), (c) and (d), and the widths of the registers. -/
theorem stateRules_of_run {t : State} (hrun : t.state = .run) (hfits : Fits t)
    (hin : 1 ≤ t.width ∧ 1 ≤ t.height ∧ t.x < t.width ∧ t.y < t.height ∧ t.done = false)
    (hpad : t.macc.toNat % 2 ^ (8 - t.x % 8) = 0)
    (hlens : t.cbuf.length = 2 * (t.y * t.width + t.x) ∧ t.mbuf.length = t.y * stride t.width + t.x / 8) :
    StateRules t := by
  have hbusy : t.state ≠ .idle := by simp [hrun]
  exact ⟨hfits, fun hi => absurd hi hbusy, fun _ => hin, fun _ => hpad, fun _ => hlens,
    fun hi => absurd hi hbusy, fun hi => absurd hi hbusy⟩

/-- The invariant of an idle block: rule R17 (a), (e) and (f), and the widths of the registers. -/
theorem stateRules_of_idle {t : State} (hidle : t.state = .idle) (hfits : Fits t)
    (horigin : t.x = 0 ∧ t.y = 0 ∧ t.macc = 0)
    (hdone : t.done = true → t.cbuf.length = 2 * t.width * t.height ∧ t.mbuf.length = t.height * stride t.width)
    (hfresh : t.done = false → t.cbuf = [] ∧ t.mbuf = []) : StateRules t := by
  have hquiet : t.state ≠ .run := by simp [hidle]
  exact ⟨hfits, fun _ => horigin, fun hr => absurd hr hquiet, fun hr => absurd hr hquiet,
    fun hr => absurd hr hquiet, fun _ => hdone, fun _ => hfresh⟩

/-- A block at the values of rule R19 is legal. -/
theorem stateRules_of_resetValues {t : State} (hdim : 1 ≤ t.dimBits) (h : ResetValues t) : StateRules t := by
  obtain ⟨hwidth, hheight, hx, hy, hmacc, hstate, hdone, hcbuf, hmbuf⟩ := h
  refine stateRules_of_idle hstate ⟨hdim, ?_⟩ ⟨hx, hy, hmacc⟩ (fun hd => ?_) (fun _ => ⟨hcbuf, hmbuf⟩)
  · simp [hwidth, hheight, hx, hy]
  · simp [hdone] at hd

/-- Presenting the inputs of a step touches nothing the invariant speaks of. -/
theorem stateRules_sampled {s : State} (h : StateRules s) : StateRules (sampled s) := h

/-- RESET leaves a legal state. -/
theorem stateRules_reset {s : State} (hdim : 1 ≤ s.dimBits) :
    StateRules { clearFrame s with width := 0, height := 0, state := .idle, done := false } :=
  stateRules_of_resetValues hdim ⟨rfl, rfl, rfl, rfl, rfl, rfl, rfl, rfl, rfl⟩

/-- An accepted START leaves a legal state: a running one at the origin, or a finished frame without pixels. -/
theorem stateRules_startFrame {s : State} {w h : Nat} (hdim : 1 ≤ s.dimBits) (hw : w < 2 ^ s.dimBits)
    (hh : h < 2 ^ s.dimBits) : StateRules (startFrame w h s) := by
  have hpos := Nat.two_pow_pos s.dimBits
  have hfits : Fits (startFrame w h s) := ⟨hdim, hw, hh, hpos, hpos⟩
  by_cases hpix : w ≠ 0 ∧ h ≠ 0
  · have hrun : startState w h = .run := (startState_eq_run_iff w h).mpr hpix
    have hdone : startDone w h = false := by
      rw [← Bool.not_eq_true, startDone_iff]; omega
    refine stateRules_of_run hrun hfits ?_ ?_ ?_
    · simp only [startFrame_width, startFrame_height, startFrame_x, startFrame_y, startFrame_done, hdone, and_true]
      omega
    · simp
    · simp
  · have hzero : w = 0 ∨ h = 0 := by omega
    have hidle : startState w h = .idle := by simp [startState, (degenerate_iff w h).mpr hzero]
    refine stateRules_of_idle hidle hfits ⟨rfl, rfl, rfl⟩ (fun _ => ?_) (fun _ => ⟨rfl, rfl⟩)
    rcases hzero with rfl | rfl <;> simp [stride]

/-- The mask bit of the chunk's pixel `j` leaves the places below it clear. -/
theorem placeBit_toNat_mod (m : Bool) {j : Nat} (hj : j < 8) : (placeBit m j).toNat % 2 ^ (7 - j) = 0 := by
  revert m j; decide

/-- Merging a pixel's bit inside a chunk keeps the places of the pixels to come clear (rule R17(c)). -/
theorem mergeBit_padding (p : Pix32) {s : State} (hpad : s.macc.toNat % 2 ^ (8 - s.x % 8) = 0) (hx : s.x % 8 ≠ 7) :
    (mergeBit p s).toNat % 2 ^ (8 - (s.x + 1) % 8) = 0 := by
  have hexp : 8 - (s.x + 1) % 8 = 7 - s.x % 8 := by omega
  have hmacc : s.macc.toNat % 2 ^ (7 - s.x % 8) = 0 :=
    Nat.mod_eq_zero_of_dvd ((Nat.pow_dvd_pow 2 (by omega)).trans (Nat.dvd_of_mod_eq_zero hpad))
  rw [hexp, mergeBit, BitVec.toNat_or, Nat.or_mod_two_pow, hmacc, placeBit_toNat_mod _ (Nat.mod_lt _ (by decide))]
  rfl

/-- The accumulator after a STEP inside a row keeps rule R17(c): cleared at a chunk end, else merged. -/
theorem stepped_padding (p : Pix32) {s : State} (hpad : s.macc.toNat % 2 ^ (8 - s.x % 8) = 0) :
    (stepped p s).macc.toNat % 2 ^ (8 - (s.x + 1) % 8) = 0 := by
  rw [stepped_macc]
  by_cases hend : chunkEnd s = true
  · simp [hend]
  · rw [if_neg hend]
    exact mergeBit_padding p hpad fun hx => hend ((chunkEnd_iff s).mpr (.inl hx))

/-- At a row's end the accumulator is cleared (rule R64). -/
theorem stepped_macc_of_lastCol (p : Pix32) {s : State} (hcol : s.x + 1 = s.width) : (stepped p s).macc = 0 := by
  rw [stepped_macc, if_pos ((chunkEnd_iff s).mpr (.inr hcol))]

theorem stepped_cbuf_length (p : Pix32) (s : State) : (stepped p s).cbuf.length = s.cbuf.length + 2 := by simp

/-- Inside a row a mask byte goes out at every eighth column, as rule R17(d) counts them. -/
theorem stepped_mbuf_length_in_row (p : Pix32) {s : State} {n : Nat} (hlen : s.mbuf.length = n + s.x / 8)
    (hcol : s.x + 1 < s.width) : (stepped p s).mbuf.length = n + (s.x + 1) / 8 := by
  rw [stepped_mbuf]
  by_cases hend : chunkEnd s = true
  · have : s.x % 8 = 7 := ((chunkEnd_iff s).mp hend).resolve_right (by omega)
    simp only [if_pos hend, List.length_append, List.length_singleton]; omega
  · have : s.x % 8 ≠ 7 := fun hx => hend ((chunkEnd_iff s).mpr (.inl hx))
    rw [if_neg hend]; omega

/-- At a row's end its last chunk goes out, full or padded, and the row's `S` bytes are complete (rule R27). -/
theorem stepped_mbuf_length_row_end (p : Pix32) {s : State} (hlen : s.mbuf.length = s.y * stride s.width + s.x / 8)
    (hcol : s.x + 1 = s.width) : (stepped p s).mbuf.length = (s.y + 1) * stride s.width := by
  have hstride : stride s.width = s.x / 8 + 1 := by unfold stride; omega
  rw [stepped_mbuf, if_pos ((chunkEnd_iff s).mpr (.inr hcol)), List.length_append, List.length_singleton, hlen,
    Nat.succ_mul]
  omega

/-- The scan position stays within its counters (rules R8, R9), in every state. -/
theorem stepped_fits (p : Pix32) {s : State} (h : Fits s) : Fits (stepped p s) := by
  obtain ⟨hdim, hwidth, hheight, _, hy⟩ := h
  have hpos := Nat.two_pow_pos s.dimBits
  have hnextX : nextX s < 2 ^ s.dimBits := by
    unfold nextX; split
    · exact hpos
    · exact fit_lt _ _
  have hnextY : nextY s < 2 ^ s.dimBits := by
    unfold nextY; split
    · split
      · exact hpos
      · exact fit_lt _ _
    · exact hy
  simp only [Fits, stepped_dimBits, stepped_width, stepped_height, stepped_x, stepped_y]
  exact ⟨hdim, hwidth, hheight, hnextX, hnextY⟩

/-- A STEP from a legal running state leaves a legal state: the frame goes on in the row or in the next one, or it is
complete. -/
theorem stateRules_stepped (p : Pix32) {s : State} (h : StateRules s) (hrun : s.state = .run) :
    StateRules (stepped p s) := by
  obtain ⟨hfits, _, hin, hpad, hlens, _, _⟩ := h
  obtain ⟨hw, hh, _, hy, _⟩ := hin hrun
  obtain ⟨hclen, hmlen⟩ := hlens hrun
  have hcbuf := stepped_cbuf_length p s
  have hfits' := stepped_fits p hfits
  rcases stepped_scan_cases p hfits hin hrun with ⟨hcol, hx', hy', hst', hdone'⟩ |
    ⟨hcol, hrow, hx', hy', hst', hdone'⟩ | ⟨hcol, hrow, hx', hy', hst', hdone'⟩
  · have hmbuf := stepped_mbuf_length_in_row p hmlen hcol
    refine stateRules_of_run hst' hfits' ?_ ?_ ?_
    · rw [stepped_width, stepped_height, hx', hy']
      exact ⟨hw, hh, hcol, hy, hdone'⟩
    · rw [hx']
      exact stepped_padding p (hpad hrun)
    · rw [stepped_width, hx', hy', hcbuf, hclen]
      exact ⟨by ring, hmbuf⟩
  · have hmbuf := stepped_mbuf_length_row_end p hmlen hcol
    refine stateRules_of_run hst' hfits' ?_ ?_ ?_
    · rw [stepped_width, stepped_height, hx', hy']
      exact ⟨hw, hh, hw, hrow, hdone'⟩
    · rw [stepped_macc_of_lastCol p hcol]
      exact Nat.zero_mod _
    · rw [stepped_width, hx', hy', hcbuf, hclen, ← hcol]
      exact ⟨by ring, by rw [hmbuf, hcol]; simp⟩
  · have hmbuf := stepped_mbuf_length_row_end p hmlen hcol
    refine stateRules_of_idle hst' hfits' ⟨hx', hy', stepped_macc_of_lastCol p hcol⟩ (fun _ => ?_) (fun hd => ?_)
    · rw [stepped_width, stepped_height, hcbuf, hclen, ← hcol, ← hrow]
      exact ⟨by ring, by rw [hmbuf, hcol]⟩
    · exact absurd (hdone'.symm.trans hd) (by decide)

/-! ### What operations write, and what they never read -/

/-- No operation writes the parameter or the environment's fields (rule R15). -/
theorem exec_sameEnvironment {i : Instr} {s t : State} (h : exec i s = .next t) : SameEnvironment s t := by
  cases i with
  | step p =>
    obtain rfl := Host.Outcome.next.inj ((exec_step p s).symm.trans h)
    exact ⟨stepped_dimBits p s, stepped_img p s, stepped_script p s, stepped_tick p s⟩
  | packchunk bits =>
    rw [exec_packchunk] at h
    split at h
    · obtain rfl := Host.Outcome.next.inj h
      exact ⟨rfl, rfl, rfl, rfl⟩
    · exact absurd h nofun
  | _ =>
    obtain rfl := Host.Outcome.next.inj h
    exact ⟨rfl, rfl, rfl, rfl⟩

/-- The canonical form of the environment's images is a fact about the fields that no operation writes. -/
theorem imagesWf_of_sameEnvironment {s t : State} (henv : SameEnvironment s t) (h : ImagesWf s) : ImagesWf t := by
  obtain ⟨_, himg, hscript, _⟩ := henv
  rwa [ImagesWf, himg, hscript]

/-- A STEP adds the same bytes to any buffers and, but for them, does the same (rules R13, R14, R33). -/
theorem stepped_withBuffers (p : Pix32) (s : State) (cb mb : List Byte) :
    stepped p { s with cbuf := cb, mbuf := mb } =
      { stepped p s with
        cbuf := cb ++ ser16be (packPixel p)
        mbuf := if chunkEnd s then mb ++ [mergeBit p s] else mb } := by
  rw [stepped_eq, stepped_eq]; rfl

/-- A step that is a STEP adds the same bytes to any buffers: what it samples does not depend on them. -/
theorem step_withBuffers_of_run {s : State} (cb mb : List Byte) (hr : (sample s).rst = false) (hrun : s.state = .run) :
    step { s with cbuf := cb, mbuf := mb } =
      .next { stepped (pixData s) (sampled s) with
        cbuf := cb ++ ser16be (packPixel (pixData s))
        mbuf := if chunkEnd (sampled s) then mb ++ [mergeBit (pixData s) (sampled s)] else mb } :=
  (step_of_run (s := { s with cbuf := cb, mbuf := mb }) hr hrun).trans
    (congrArg Host.Outcome.next (stepped_withBuffers (pixData s) (sampled s) cb mb))

/-- A byte of a sequence, other than those appended, reads as before. -/
theorem getElem?_append_of_frame {α : Type} (xs ys : List α) {a : Nat} (h : a < xs.length ∨ xs.length + ys.length ≤ a) :
    (xs ++ ys)[a]? = xs[a]? := by
  rcases h with h | h
  · exact List.getElem?_append_left h
  · rw [List.getElem?_eq_none (by simpa using h), List.getElem?_eq_none (by omega)]

/-! ### The output signals (rule R21) -/

theorem colValid_iff (s : State) : colValid s = true ↔ (sample s).rst = false ∧ s.state = .run := by
  simp [colValid, busy_iff]

theorem maskValid_iff (s : State) :
    maskValid s = true ↔ ((sample s).rst = false ∧ s.state = .run) ∧ (s.x % 8 = 7 ∨ s.x + 1 = s.width) := by
  simp [maskValid, colValid_iff, chunkEnd_iff]

theorem ports_colData {s : State} (h : colValid s = true) : (ports s).colData = packPixel (pixData s) := if_pos h

theorem ports_maskData {s : State} (h : maskValid s = true) : (ports s).maskData = mergeBit (pixData s) s := if_pos h

/-- A STEP appends what the ports mark valid in it, and nothing else. -/
theorem stepped_buffers_eq_ports {s : State} (hr : (sample s).rst = false) (hrun : s.state = .run) :
    (stepped (pixData s) (sampled s)).cbuf = s.cbuf ++ ser16be (ports s).colData ∧
    (stepped (pixData s) (sampled s)).mbuf =
      if (ports s).maskValid then s.mbuf ++ [(ports s).maskData] else s.mbuf := by
  have hcol : colValid s = true := (colValid_iff s).mpr ⟨hr, hrun⟩
  have hmask : (ports s).maskValid = chunkEnd s := by
    show (colValid s && chunkEnd s) = chunkEnd s
    rw [hcol, Bool.true_and]
  constructor
  · rw [stepped_cbuf, ports_colData hcol, sampled_cbuf]
  · rw [stepped_mbuf, chunkEnd_sampled, mergeBit_sampled, sampled_mbuf, hmask]
    split
    next hend => rw [ports_maskData (hmask.trans hend)]
    next => rfl

end Sys2Proof.Machine

/-! ### The obligations -/

namespace Sys2Proof.Proofs

open Sys2Proof.Machine Sys2Proof.Safety

/-- Settles O33, by the four operations a step can be. -/
theorem stepKeepsTheStateRules : Obligations.StepKeepsTheStateRules := by
  intro s t h hstep
  have ⟨⟨hdim, _⟩, _⟩ := h
  rcases step_cases s with ⟨_, he⟩ | ⟨_, hrun, he⟩ | ⟨_, _, _, he⟩ | ⟨_, _, _, he⟩ <;>
    obtain rfl := Host.Outcome.next.inj (he.symm.trans hstep)
  · exact stateRules_reset (s := sampled s) hdim
  · exact stateRules_stepped _ (stateRules_sampled h) hrun
  · exact stateRules_startFrame (s := sampled s) hdim (fit_lt _ _) (fit_lt _ _)
  · exact stateRules_sampled h

/-- Settles O10: the fields after a STEP, and the offsets its appends leave alone. -/
theorem stepFrame : Obligations.StepFrame := by
  intro s p
  refine ⟨stepped p s, exec_step p s, stepped_width p s, stepped_height p s, exec_sameEnvironment (exec_step p s),
    stepped_result p s, fun a h0 h1 => ?_, fun a ha => ?_⟩
  · rw [readColor, stepped_cbuf]
    exact getElem?_append_of_frame _ _ (by rw [ser16be_length]; omega)
  · rw [readMask, stepped_mbuf]
    split
    next hend =>
      have := ha hend
      exact getElem?_append_of_frame _ _ (by rw [List.length_singleton]; omega)
    next => rfl

/-- Settles O34: a step is an operation on the sampled state, and no operation writes the environment. -/
theorem imagesStayCanonicalAndUnwritten : Obligations.ImagesStayCanonicalAndUnwritten := by
  refine ⟨fun s t h hstep => ?_, fun i s t => exec_sameEnvironment, fun im c c' p h =>
    ⟨imgSet_wf c p h, imgGet_imgSet_same im c p, imgGet_imgSet_other im p⟩⟩
  have henv : SameEnvironment (sampled s) t := exec_sameEnvironment hstep
  have ⟨_, himg, _, _⟩ := henv
  exact ⟨imagesWf_of_sameEnvironment henv (sampled_images_wf h), himg⟩

/-- Settles O35, by the four operations a step can be. -/
theorem runFlagTransitions : Obligations.RunFlagTransitions := by
  intro s ⟨_, _, hin, _⟩
  rcases step_cases s with ⟨hr, he⟩ | ⟨hr, hrun, he⟩ | ⟨hr, hidle, hstart, he⟩ | ⟨hr, hidle, hstart, he⟩
  · exact ⟨_, he, by simp [hr], by simp [hr], busy_iff s⟩
  · refine ⟨_, he, by simp [hrun], fun _ => ?_, busy_iff s⟩
    rw [stepped_state, stepState_sampled, stepState_eq_idle_iff hrun, lastPixel_iff_of_scanInside hin hrun]
    simp [hr]
  · refine ⟨_, he, fun _ => ?_, by simp [hidle], busy_iff s⟩
    rw [startFrame_state, startState_eq_run_iff]
    simp [hr, hstart, fit]
  · exact ⟨_, he, by simp [hidle, hstart], by simp [hidle], busy_iff s⟩

/-- Settles O36, by the four operations a step can be. -/
theorem doneFlagTransitions : Obligations.DoneFlagTransitions := by
  intro s ⟨_, _, hin, _⟩
  rcases step_cases s with ⟨hr, he⟩ | ⟨hr, hrun, he⟩ | ⟨hr, hidle, hstart, he⟩ | ⟨hr, hidle, hstart, he⟩
  · exact ⟨_, he, fun _ => rfl, by simp [hr], by simp [hr], by simp [hr], rfl⟩
  · refine ⟨_, he, by simp [hr], fun _ _ => ?_, by simp [hrun], by simp [hrun], rfl⟩
    obtain ⟨_, _, _, _, hdone⟩ := hin hrun
    rw [stepped_done, stepDone_sampled, stepDone_iff hdone, lastPixel_iff_of_scanInside hin hrun]
  · exact ⟨_, he, by simp [hr], by simp [hidle], fun _ _ _ => startDone_iff _ _, by simp [hstart], rfl⟩
  · exact ⟨_, he, by simp [hr], by simp [hidle], by simp [hstart], fun _ _ _ => rfl, rfl⟩

/-- Settles O38, by the four operations a step can be. -/
theorem buffersOnlyGrow : Obligations.BuffersOnlyGrow := by
  intro s
  rcases step_cases s with ⟨hr, he⟩ | ⟨hr, hrun, he⟩ | ⟨hr, hidle, hstart, he⟩ | ⟨hr, hidle, hstart, he⟩
  · exact ⟨_, he, fun _ => ⟨rfl, rfl⟩, by simp [hr], by simp [hr]⟩
  · obtain ⟨hcbuf, hmbuf⟩ := stepped_buffers_eq_ports hr hrun
    have hvalid : colValid s = true := (colValid_iff s).mpr ⟨hr, hrun⟩
    exact ⟨_, he, by simp [hr, hrun], fun _ _ => ⟨hcbuf, hvalid, hmbuf⟩, by simp [hrun]⟩
  · exact ⟨_, he, fun _ => ⟨rfl, rfl⟩, by simp [hidle], by simp [hstart]⟩
  · exact ⟨_, he, by simp [hr, hstart], by simp [hidle], fun _ _ _ => ⟨rfl, rfl⟩⟩

/-- Settles O39: the signals by their definitions, and the bytes of the step by what the ports mark valid. -/
theorem outputSignals : Obligations.OutputSignals := by
  intro s
  refine ⟨busy_iff s, rfl, busy_iff s, rfl, rfl, colValid_iff s, maskValid_iff s, fun hcol => ?_, fun hmask => ?_,
    fun hr => ?_⟩
  · obtain ⟨hr, hrun⟩ := (colValid_iff s).mp hcol
    obtain ⟨hcbuf, _⟩ := stepped_buffers_eq_ports hr hrun
    exact ⟨ports_colData hcol, _, step_of_run hr hrun, hcbuf⟩
  · obtain ⟨⟨hr, hrun⟩, _⟩ := (maskValid_iff s).mp hmask
    obtain ⟨_, hmbuf⟩ := stepped_buffers_eq_ports hr hrun
    exact ⟨ports_maskData hmask, _, step_of_run hr hrun, hmbuf.trans (if_pos hmask)⟩
  · simp [ports, maskValid, colValid, hr]

/-- Settles O42: each of the four operations a step can be, on both states. -/
theorem buffersAreNeverRead : Obligations.BuffersAreNeverRead := by
  intro s cb mb
  rcases step_cases s with ⟨hr, he⟩ | ⟨hr, hrun, he⟩ | ⟨hr, hidle, hstart, he⟩ | ⟨hr, hidle, hstart, he⟩
  · exact ⟨_, _, he, step_of_rst hr, rfl, ⟨[], .inr ⟨rfl, rfl⟩⟩, ⟨[], .inr ⟨rfl, rfl⟩⟩⟩
  · refine ⟨_, _, he, step_withBuffers_of_run cb mb hr hrun, rfl,
      ⟨ser16be (packPixel (pixData s)), .inl ⟨stepped_cbuf _ _, rfl⟩⟩, ?_⟩
    rw [stepped_mbuf]
    cases chunkEnd (sampled s)
    · exact ⟨[], .inl (by simp)⟩
    · exact ⟨[mergeBit (pixData s) (sampled s)], .inl ⟨rfl, rfl⟩⟩
  · exact ⟨_, _, he, step_of_start hr hidle hstart, rfl, ⟨[], .inr ⟨rfl, rfl⟩⟩, ⟨[], .inr ⟨rfl, rfl⟩⟩⟩
  · exact ⟨_, _, he, step_of_idle hr hidle hstart, rfl, ⟨[], .inl (by simp)⟩, ⟨[], .inl (by simp)⟩⟩

/-- Settles O2: the wires of a step fit their ports, so their bits decode to what the wires ask for. -/
theorem stepRunsTheDecodedInstruction : Obligations.StepRunsTheDecodedInstruction := by
  intro s i hdec _
  obtain rfl : decode (stepWord s) = i := Except.ok.inj ((decodeBits_toBits (stepWord_fits s)).symm.trans hdec)
  exact ⟨rfl, ⟨rfl, rfl, rfl, rfl, rfl, rfl, rfl, rfl, rfl⟩, rfl, rfl, rfl⟩

/-- Settles O32: the values of rule R19 are legal. -/
theorem resetStateIsLegal : Obligations.ResetStateIsLegal := by
  have hvalues : ResetValues State.reset := ⟨rfl, rfl, rfl, rfl, rfl, rfl, rfl, rfl, rfl⟩
  exact ⟨hvalues, rfl, stateRules_of_resetValues (by decide) hvalues, reset_img_wf, nofun⟩

/-- Settles O43: every field of the block after a START is a function of the dimensions and DIM_BITS. -/
theorem noStateSurvivesStart : Obligations.NoStateSurvivesStart := by
  intro s s' w h hdim
  refine ⟨_, _, exec_convert w h s, exec_convert w h s', ?_⟩
  rw [hdim]
  exact ⟨rfl, rfl, rfl, rfl, rfl, rfl, rfl, rfl, rfl⟩

end Sys2Proof.Proofs
end

section
/-! ## The data spaces: the queries of a frame, and the places of its bytes (20_memory.md) -/

/-! ### Runs and row-major indices -/

namespace Sys2Proof.Machine

open Sys2Proof.Safety

/-- Every step answers a next state. -/
theorem step_answers (s : State) : ∃ t, step s = .next t := by
  rcases step_cases s with ⟨_, he⟩ | ⟨_, _, he⟩ | ⟨_, _, _, he⟩ | ⟨_, _, _, he⟩ <;> exact ⟨_, he⟩

/-- A run goes on by one more step at its end. -/
theorem run_snoc (k : Nat) {s t u : State} (hrun : Sys2Proof.core.run k s = .next t) (hstep : step t = .next u) :
    Sys2Proof.core.run (k + 1) s = .next u := by
  induction k generalizing s with
  | zero =>
    obtain rfl := Host.Outcome.next.inj hrun
    rw [run_succ 0 hstep, run_zero]
  | succ k ih =>
    obtain ⟨s₁, hs₁⟩ := step_answers s
    rw [run_succ k hs₁] at hrun
    rw [run_succ (k + 1) hs₁, ih hrun]

/-- The linear index of a coordinate of the image (rule R26) is below the number of pixels. -/
theorem rowMajor_lt {w h row col : Nat} (hrow : row < h) (hcol : col < w) : row * w + col < w * h :=
  calc row * w + col < (row + 1) * w := by rw [Nat.succ_mul]; omega
    _ ≤ h * w := Nat.mul_le_mul_right w hrow
    _ = w * h := Nat.mul_comm h w

/-- A number is the linear index of exactly one coordinate (rule R66). -/
theorem divMod_eq_iff {w row col : Nat} (hcol : col < w) (n : Nat) :
    (n / w, n % w) = (row, col) ↔ n = row * w + col := by
  rw [Prod.mk.injEq, Nat.div_mod_unique (Nat.zero_lt_of_lt hcol), Nat.mul_comm w row]
  omega

/-- A STEP of a legal running block that is not the frame's last leaves it running, at the next linear index
(rule R66). -/
theorem stepped_index (p : Pix32) {s : State} (hfits : Fits s) (hin : ScanInside s) (hrun : s.state = .run)
    (hmore : s.y * s.width + s.x + 1 < s.width * s.height) :
    (stepped p s).state = .run ∧
      (stepped p s).y * s.width + (stepped p s).x = s.y * s.width + s.x + 1 := by
  rcases stepped_scan_cases p hfits hin hrun with ⟨_, hx', hy', hst', _⟩ | ⟨hcol, _, hx', hy', hst', _⟩ |
    ⟨hcol, hrow, _⟩
  · exact ⟨hst', by rw [hx', hy']; rfl⟩
  · exact ⟨hst', by rw [hx', hy', Nat.succ_mul]; omega⟩
  · have hlast : s.y * s.width + s.x + 1 = s.width * s.height := by
      rw [← hrow, Nat.mul_succ, Nat.mul_comm s.width]; omega
    omega

/-! ### A frame in progress: where the scan is, and what the environment still presents -/

/-- The block after `n` STEPs of the frame accepted in `s`: it runs, legally, at linear index `n`, and the environment
holds the frame's image and the script lines not yet used up. -/
structure FrameAt (s : State) (w h n : Nat) (t : State) : Prop where
  legal : StateRules t
  running : t.state = .run
  width : t.width = w
  height : t.height = h
  index : t.y * w + t.x = n
  image : t.img = sourceImage s
  script : t.script = s.script.tail.drop n

section FrameAt

variable {s t u : State} {w h n : Nat} {img : ImageFn}

theorem FrameAt.inside (hat : FrameAt s w h n t) : t.y < h ∧ t.x < w := by
  obtain ⟨_, _, hin, _⟩ := hat.legal
  obtain ⟨_, _, hx, hy, _⟩ := hin hat.running
  exact ⟨hat.height ▸ hy, hat.width ▸ hx⟩

/-- The scan position is the coordinate with linear index `n` (rules R23, R66). -/
theorem FrameAt.position (hat : FrameAt s w h n t) : (t.y, t.x) = (n / w, n % w) :=
  ((divMod_eq_iff hat.inside.2 n).mpr hat.index.symm).symm

/-- The coming step of a quiet frame has neither a RESET nor another image. -/
theorem FrameAt.sample_quiet (hat : FrameAt s w h n t) {m : Nat} (hquiet : QuietFor s m) (hn : n < m) :
    (sample t).rst = false ∧ (sample t).image = none := by
  obtain ⟨hlen, hlines⟩ := hquiet
  have hlt : n < s.script.tail.length := by omega
  have hsample : sample t = s.script.tail[n] :=
    sample_of_script (hat.script.trans (List.drop_eq_getElem_cons hlt))
  rw [hsample]
  exact hlines _ (List.mem_take_iff_getElem.mpr ⟨n, by omega, rfl⟩)

/-- A STEP of a frame is answered from the image its START was accepted with (rules R15, R90). -/
theorem FrameAt.sourceImage_eq (hat : FrameAt s w h n t) (himg : (sample t).image = none) :
    sourceImage t = sourceImage s :=
  (sourceImage_of_none himg).trans hat.image

/-- STEP number `n` of a frame is answered with the image's pixel at the coordinate of index `n` (rule R24). -/
theorem FrameAt.pixData_eq (hat : FrameAt s w h n t) (himg : (sample t).image = none) (hans : Answers s w h img) :
    pixData t = img (n / w) (n % w) := by
  obtain ⟨hy, hx⟩ := hat.inside
  obtain ⟨hrow, hcol⟩ := Prod.mk.inj hat.position
  rw [pixData, pixRead, hat.sourceImage_eq himg, hans _ _ hy hx, Option.getD_some, hrow, hcol]

/-- A STEP that is not the frame's last leaves the block running at the next index (rule R66). -/
theorem FrameAt.step_next (hat : FrameAt s w h n t) (hquiet : QuietFor s (w * h)) (hn : n + 1 < w * h)
    (hstep : step t = .next u) : FrameAt s w h (n + 1) u := by
  obtain ⟨hr, himg⟩ := hat.sample_quiet hquiet (Nat.lt_of_succ_lt hn)
  obtain rfl := Host.Outcome.next.inj ((step_of_run hr hat.running).symm.trans hstep)
  have hlegal : StateRules (sampled t) := stateRules_sampled hat.legal
  have ⟨hfits, _, hin, _⟩ := hlegal
  have hmore : (sampled t).y * (sampled t).width + (sampled t).x + 1 < (sampled t).width * (sampled t).height := by
    rw [sampled_y, sampled_x, sampled_width, sampled_height, hat.width, hat.height, hat.index]; exact hn
  obtain ⟨hrun', hindex'⟩ := stepped_index (pixData t) hfits hin hat.running hmore
  rw [sampled_y, sampled_x, sampled_width, hat.width, hat.index] at hindex'
  exact {
    legal := stateRules_stepped _ hlegal hat.running
    running := hrun'
    width := by simpa using hat.width
    height := by simpa using hat.height
    index := hindex'
    image := by simpa using hat.sourceImage_eq himg
    script := by simp [hat.script] }

/-- The START of a frame with pixels leaves the block running at index 0 (rule R63). -/
theorem frameAt_start (hstart : StartsFrame s w h) (hpix : 0 < w * h) : ∃ t, step s = .next t ∧ FrameAt s w h 0 t := by
  obtain ⟨hidle, hw, hh, im, hline⟩ := hstart
  replace hw : w < 2 ^ s.dimBits := of_decide_eq_true hw
  replace hh : h < 2 ^ s.dimBits := of_decide_eq_true hh
  have hw0 : w ≠ 0 := fun h0 => by simp [h0] at hpix
  have hh0 : h ≠ 0 := fun h0 => by simp [h0] at hpix
  have hdim : 1 ≤ s.dimBits := Nat.one_le_iff_ne_zero.mpr fun h0 => by rw [h0] at hw; omega
  obtain ⟨rest, hscript⟩ := List.head?_eq_some_iff.mp hline
  have hsample : sample s = ⟨false, true, w, h, im⟩ := sample_of_script hscript
  refine ⟨startFrame w h (sampled s), ?_, ?_⟩
  · rw [step_of_start (by rw [hsample]) hidle (by rw [hsample]), hsample, fit_of_lt hw, fit_of_lt hh]
  · exact {
      legal := stateRules_startFrame (s := sampled s) hdim hw hh
      running := (startState_eq_run_iff w h).mpr ⟨hw0, hh0⟩
      width := rfl
      height := rfl
      index := by simp
      image := rfl
      script := by simp }

/-- In a frame whose host keeps the contract, every STEP leaves the block at the next index. -/
theorem frameAt_run (hahead : FrameAhead s w h img) (hn : n < w * h) :
    ∃ t, Sys2Proof.core.run (1 + n) s = .next t ∧ FrameAt s w h n t := by
  obtain ⟨hstart, hquiet, _⟩ := hahead
  induction n with
  | zero =>
    obtain ⟨t, hstep, hat⟩ := frameAt_start hstart hn
    exact ⟨t, run_snoc 0 (run_zero s) hstep, hat⟩
  | succ n ih =>
    obtain ⟨t, hrun, hat⟩ := ih (Nat.lt_of_succ_lt hn)
    obtain ⟨u, hstep⟩ := step_answers t
    exact ⟨u, run_snoc (1 + n) hrun hstep, hat.step_next hquiet hn hstep⟩

end FrameAt

/-! ### The bytes of a buffer, row by row -/

/-- In a concatenation of `n` blocks of `k` entries each, entry `j` of block `i` stands at `i * k + j`. -/
theorem getElem?_flatMap_range {α : Type} {f : Nat → List α} {k : Nat} (hlen : ∀ i, (f i).length = k) {n i j : Nat}
    (hi : i < n) (hj : j < k) : ((List.range n).flatMap f)[i * k + j]? = (f i)[j]? := by
  induction n with
  | zero => exact absurd hi (Nat.not_lt_zero i)
  | succ n ih =>
    have hpre : ((List.range n).flatMap f).length = n * k := by simp [List.length_flatMap, hlen]
    rw [List.range_succ, List.flatMap_append, List.flatMap_singleton]
    rcases Nat.lt_succ_iff_lt_or_eq.mp hi with hlt | rfl
    · have hin : i * k + j < n * k := by
        rw [Nat.mul_comm n k]; exact rowMajor_lt hlt hj
      rw [List.getElem?_append_left (hpre.symm ▸ hin), ih hlt]
    · rw [List.getElem?_append_right (by omega), hpre, Nat.add_sub_cancel_left]

@[simp] theorem rowColors_length (img : ImageFn) (w row : Nat) : (rowColors img w row).length = w * 2 := by
  simp [rowColors, List.length_flatMap]

@[simp] theorem rowBits_length (img : ImageFn) (w row : Nat) : (rowBits img w row).length = w := by simp [rowBits]

/-- Byte `k` of a pixel's pair stands at offset `2i + k` of the color buffer, `i` the pixel's linear index (rule R26). -/
theorem colorBuffer_getElem? {w h : Nat} (img : ImageFn) {row col k : Nat} (hrow : row < h) (hcol : col < w)
    (hk : k < 2) :
    (colorBuffer w h img)[2 * (row * w + col) + k]? = (ser16be (packPixel (img row col)))[k]? := by
  have hoff : 2 * (row * w + col) + k = row * (w * 2) + (col * 2 + k) := by ring
  rw [hoff, colorBuffer, getElem?_flatMap_range (fun i => rowColors_length img w i) hrow (by omega), rowColors,
    getElem?_flatMap_range (fun _ => ser16be_length _) hcol hk]

/-- Byte `j` of a row's mask bytes stands at offset `row * S + j` of the mask buffer (rule R27). -/
theorem maskBuffer_getElem? {w h : Nat} (img : ImageFn) {row j : Nat} (hrow : row < h) (hj : j < stride w) :
    (maskBuffer w h img)[row * stride w + j]? = some (packChunk (chunk (rowBits img w row) j)) := by
  rw [maskBuffer, getElem?_flatMap_range (fun _ => by simp) hrow hj, packRow_getElem? _ (by simpa using hj)]

/-- A row's bits, and 0 past its end. -/
theorem rowBits_getD (img : ImageFn) (w row col : Nat) :
    (rowBits img w row).getD col false = (decide (col < w) && maskBit (img row col)) := by
  by_cases hcol : col < w <;> simp [rowBits, List.getD_eq_getElem?_getD, hcol]

/-- Bit `7 - k` of byte `j` of a row is the bit of column `8j + k`, or padding (rules R27, R29). -/
theorem packChunk_rowBits_getLsbD (img : ImageFn) (w row j : Nat) {k : Nat} (hk : k < 8) :
    (packChunk (chunk (rowBits img w row) j)).getLsbD (7 - k) =
      (decide (8 * j + k < w) && maskBit (img row (8 * j + k))) := by
  rw [packChunk_getLsbD (chunk_length_le _ j) hk, chunk_getD _ _ _ hk, rowBits_getD]

/-- A row's bits are a function of that row's pixels (rule R29). -/
theorem rowBits_congr {img img' : ImageFn} {w row : Nat} (h : ∀ col, col < w → img row col = img' row col) :
    rowBits img w row = rowBits img' w row :=
  List.map_congr_left fun col hcol => by rw [h col (List.mem_range.mp hcol)]

/-! ### The fields in the two bytes of a color word -/

/-- The bits `b` to `b + m - 1` of a field that starts at bit `a`. -/
theorem extractLsb'_of_field {v a n b m : Nat} (c : BitVec v) (h : b + m ≤ n) :
    (c.extractLsb' a n).extractLsb' b m = c.extractLsb' (a + b) m := by
  ext i hi
  have hin : b + i < n := by omega
  simp [hin, Nat.add_assoc]

/-- The more significant byte holds the red field and the upper half of the green one (rules R26, R42). -/
theorem colorHighByte_fields (c : Color) : c.extractLsb' 8 8 = red5 c ++ (green6 c).extractLsb' 3 3 := by
  rw [green6, extractLsb'_of_field c (by decide)]
  exact (BitVec.extractLsb'_append_extractLsb'_eq_extractLsb' (start₁ := 8) (len₁ := 3) (len₂ := 5) rfl).symm

/-- The less significant byte holds the lower half of the green field and the blue one (rules R26, R42). -/
theorem colorLowByte_fields (c : Color) : c.extractLsb' 0 8 = (green6 c).extractLsb' 0 3 ++ blue5 c := by
  rw [green6, extractLsb'_of_field c (by decide)]
  exact (BitVec.extractLsb'_append_extractLsb'_eq_extractLsb' (start₁ := 0) (len₁ := 5) (len₂ := 3) rfl).symm

end Sys2Proof.Machine

/-! ### The obligations -/

namespace Sys2Proof.Proofs

open Sys2Proof.Machine Sys2Proof.Safety

/-- Settles O46: the block stands at linear index `n` before STEP number `n`, and an index below `w * h` is one
coordinate. -/
theorem frameReadsEachPixelOnceInOrder : Obligations.FrameReadsEachPixelOnceInOrder := by
  intro s w h img hahead
  have ⟨_, hquiet, hans⟩ := hahead
  refine ⟨fun n hn => ?_, fun row col hrow hcol => ?_⟩
  · obtain ⟨t, hrun, hat⟩ := frameAt_run hahead hn
    obtain ⟨hr, himg⟩ := hat.sample_quiet hquiet hn
    exact ⟨t, hrun, (busy_iff t).mpr hat.running, (colValid_iff t).mpr ⟨hr, hat.running⟩, hat.position,
      hat.pixData_eq himg hans⟩
  · exact ⟨row * w + col, rowMajor_lt hrow hcol, (divMod_eq_iff hcol _).mpr rfl, fun m => (divMod_eq_iff hcol m).mp⟩

/-- Settles O26: the places of a pixel's two bytes, and the fields in each. -/
theorem colorBytesAtTheirOffsets : Obligations.ColorBytesAtTheirOffsets := by
  intro w h img row col hrow hcol
  exact ⟨colorBuffer_getElem? img hrow hcol Nat.zero_lt_two, colorBuffer_getElem? img hrow hcol Nat.one_lt_two,
    colorHighByte_fields _, colorLowByte_fields _⟩

/-- Settles O27: the place of a row's bytes in the buffer, and of a pixel's bit in its byte. -/
theorem maskRowsAlignedAndPadded : Obligations.MaskRowsAlignedAndPadded := by
  refine ⟨fun w h img row col hrow hcol => ?_, fun w h img row hrow hw => ?_, fun w h img img' row j hrow hj heq => ?_⟩
  · refine ⟨_, maskBuffer_getElem? img hrow (by unfold stride; omega), ?_⟩
    rw [packChunk_rowBits_getLsbD _ _ _ _ (Nat.mod_lt col (by decide)), Nat.div_add_mod, decide_eq_true hcol,
      Bool.true_and]
  · have hlast : (w + 7) / 8 - 1 = w / 8 := by omega
    have hstart : w - w % 8 = 8 * (w / 8) := by omega
    rw [hlast, hstart]
    refine ⟨_, maskBuffer_getElem? img hrow (by unfold stride; omega), fun j hj => ?_, fun j hj => ?_⟩
    · rw [packChunk_rowBits_getLsbD _ _ _ _ (by omega), decide_eq_true (by omega), Bool.true_and]
    · have hplace : 7 - (7 - j) = j := by omega
      have hpad := packChunk_rowBits_getLsbD img w row (w / 8) (k := 7 - j) (by omega)
      rwa [hplace, decide_eq_false (by omega), Bool.false_and] at hpad
  · rw [← stride, maskBuffer_getElem? img hrow hj, maskBuffer_getElem? img' hrow hj, rowBits_congr heq]

/-- Settles O40: the query of a running block is its scan position, which rule R17(b) keeps inside. -/
theorem queriesStayInsideTheImage : Obligations.QueriesStayInsideTheImage := by
  intro s ⟨_, _, hin, _⟩ hreq
  obtain ⟨_, _, hx, hy, _⟩ := hin ((busy_iff s).mp hreq)
  exact ⟨hy, hx⟩

end Sys2Proof.Proofs
end

section
/-! ## The encoding: the wires of an operation, the bits of the outputs, the lines of a script (30_encoding.md) -/

/-! ### The decoder on the wires of an operation, and on any wires -/

namespace Sys2Proof

/-- The wires that ask for an operation are decoded to it (rule R45). -/
theorem decode_encodeWord {i : Instr} {s : StepWord} (h : encodeWord i = some s) : decode s = i := by
  cases i with
  | reset | convert | step | idle =>
    obtain rfl := Option.some.inj h
    simp [decode]
  | packcolor | ser16be | packmaskbit | packchunk | packrow => exact absurd h nofun

/-- Exactly the step operations have wires that ask for them (rule R50). -/
theorem encodeWord_isSome (i : Instr) : (encodeWord i).isSome = i.isStepOp := by cases i <;> rfl

/-- What the table of rule R45 says of each of its rows, by the bits that rule R76 tests in turn. -/
theorem decode_cases (s : StepWord) :
    (s.ctl.getLsbD 2 = true ∧ decode s = .reset) ∨
    (s.ctl.getLsbD 2 = false ∧ s.ctl.getLsbD 0 = true ∧ decode s = .step s.pixData) ∨
    (s.ctl.getLsbD 2 = false ∧ s.ctl.getLsbD 0 = false ∧ s.ctl.getLsbD 1 = true ∧
      decode s = .convert s.widthIn s.heightIn) ∨
    (s.ctl.getLsbD 2 = false ∧ s.ctl.getLsbD 0 = false ∧ s.ctl.getLsbD 1 = false ∧ decode s = .idle) := by
  unfold decode
  cases s.ctl.getLsbD 2
  · cases s.ctl.getLsbD 0
    · cases s.ctl.getLsbD 1 <;> simp
    · simp
  · simp

/-- Any wires ask for a step operation, a well-formed one if the dimensions fit their ports (rule R47). -/
theorem decode_wf {n : Nat} {s : StepWord} (h : s.fits n) : (decode s).wf n = true ∧ (decode s).isStepOp = true := by
  obtain ⟨hw, hh⟩ := h
  rcases decode_cases s with ⟨_, he⟩ | ⟨_, _, he⟩ | ⟨_, _, _, he⟩ | ⟨_, _, _, he⟩ <;> rw [he]
  · exact ⟨rfl, rfl⟩
  · exact ⟨rfl, rfl⟩
  · exact ⟨by simp [Instr.wf, fitsPort, hw, hh], rfl⟩
  · exact ⟨rfl, rfl⟩

/-- The match and mask patterns of the table test the bits of the control vector that are not `-` in it (rule R45). -/
theorem ctl_patterns (c : BitVec 3) :
    (c &&& 0b100#3 = 0b100#3 ↔ c.getLsbD 2 = true) ∧
    (c &&& 0b111#3 = 0b010#3 ↔ c.getLsbD 2 = false ∧ c.getLsbD 0 = false ∧ c.getLsbD 1 = true) ∧
    (c &&& 0b101#3 = 0b001#3 ↔ c.getLsbD 2 = false ∧ c.getLsbD 0 = true) ∧
    (c &&& 0b111#3 = 0b000#3 ↔ c.getLsbD 2 = false ∧ c.getLsbD 0 = false ∧ c.getLsbD 1 = false) := by
  revert c; decide

theorem ctl3_toNat (rst start running : Bool) :
    (ctl3 rst start running).toNat = 4 * rst.toNat + 2 * start.toNat + running.toNat := by
  revert rst start running; decide

end Sys2Proof

namespace Sys2Proof.Machine

/-! ### The bits of a pixel word in the outputs (rules R42, R46) -/

/-- The three shifted channels do not overlap: the color word is `{R5, G6, B5}` (rules R42, R51). -/
theorem packColor_eq_append (r g b a : Byte) :
    packColor r g b a = r.extractLsb' 3 5 ++ g.extractLsb' 2 6 ++ b.extractLsb' 3 5 := by
  apply BitVec.eq_of_getLsbD_eq
  intro i hi
  simp only [packColor, BitVec.truncate_eq_setWidth, BitVec.getLsbD_or, BitVec.getLsbD_shiftLeft,
    BitVec.getLsbD_setWidth, BitVec.getLsbD_ushiftRight, BitVec.getLsbD_append, BitVec.getLsbD_extractLsb']
  by_cases hblue : i < 5
  · simp [hblue, hi, show i < 11 by omega]
  · have hb : b.getLsbD (3 + i) = false := BitVec.getLsbD_of_ge b _ (by omega)
    by_cases hgreen : i < 11
    · simp [hblue, hgreen, hb, hi, show i - 5 < 6 by omega, show i - 5 < 16 by omega]
    · have hg : g.getLsbD (2 + (i - 5)) = false := BitVec.getLsbD_of_ge g _ (by omega)
      simp [hblue, hgreen, hb, hg, hi, Nat.sub_sub, show ¬ i - 5 < 6 by omega, show i - 11 < 5 by omega,
        show i - 11 < 16 by omega]

section Fields

variable (r : BitVec 5) (g : BitVec 6) (b : BitVec 5)

@[simp] theorem red5_append : red5 (r ++ g ++ b) = r := by
  rw [red5, BitVec.extractLsb'_append_eq_of_le (by decide)]
  exact BitVec.extractLsb'_append_eq_left

@[simp] theorem green6_append : green6 (r ++ g ++ b) = g := by
  rw [green6, BitVec.extractLsb'_append_eq_of_le (by decide)]
  exact BitVec.extractLsb'_append_eq_right

@[simp] theorem blue5_append : blue5 (r ++ g ++ b) = b := BitVec.extractLsb'_append_eq_right

end Fields

/-- The fields of a packed pixel, in place in its pixel word (rule R46). -/
theorem packPixel_eq_append (p : Pix32) :
    packPixel p = p.extractLsb' 27 5 ++ p.extractLsb' 18 6 ++ p.extractLsb' 11 5 := by
  rw [packPixel, packColor_eq_append, red, green, blue, extractLsb'_of_field p (by decide),
    extractLsb'_of_field p (by decide), extractLsb'_of_field p (by decide)]

/-- A byte is not 0 exactly when one of its bits is 1. -/
theorem byte_ne_zero_eq_or (b : Byte) :
    (b != 0) = (b.getLsbD 7 || b.getLsbD 6 || b.getLsbD 5 || b.getLsbD 4 || b.getLsbD 3 || b.getLsbD 2 ||
      b.getLsbD 1 || b.getLsbD 0) := by
  revert b; decide

theorem alpha_getLsbD (p : Pix32) {i : Nat} (hi : i < 8) : (alpha p).getLsbD i = p.getLsbD i := by
  simp [alpha, hi]

/-! ### The value of a packed chunk (rule R57) -/

theorem placeBit_toNat (m : Bool) (j : Nat) : (placeBit m j).toNat = m.toNat * 2 ^ (7 - j) := by
  cases m with
  | false => simp [placeBit]
  | true =>
    have hlt : 2 ^ (7 - j) < 2 ^ 8 := Nat.pow_lt_pow_right (by decide) (by omega)
    simpa [placeBit, Nat.shiftLeft_eq] using hlt

/-- The bits of the pixels after the first lie below the first one's, so the bytes add up. -/
theorem packChunkFrom_cons_toNat {m : Bool} {ms : List Bool} {k : Nat}
    (h : (packChunkFrom (k + 1) ms).toNat < 2 ^ (8 - (k + 1))) :
    (packChunkFrom k (m :: ms)).toNat = m.toNat * 2 ^ (7 - k) + (packChunkFrom (k + 1) ms).toNat := by
  have hplace : 8 - (k + 1) = 7 - k := by omega
  rw [hplace] at h
  rw [packChunkFrom, BitVec.toNat_or, placeBit_toNat, Nat.mul_comm, Nat.two_pow_add_eq_or_of_lt h]

/-- The loop of rule R57 from pixel `k` on leaves the bits of the pixels before `k` clear. -/
theorem packChunkFrom_toNat_lt (bits : List Bool) :
    ∀ k, k + bits.length ≤ 8 → (packChunkFrom k bits).toNat < 2 ^ (8 - k) := by
  induction bits with
  | nil => intro k _; exact Nat.two_pow_pos _
  | cons m ms ih =>
    intro k hk
    rw [List.length_cons] at hk
    have hrest := ih (k + 1) (by omega)
    have hfirst : m.toNat * 2 ^ (7 - k) ≤ 1 * 2 ^ (7 - k) := Nat.mul_le_mul_right _ m.toNat_le
    have hplace : 8 - (k + 1) = 7 - k := by omega
    have hdouble : 8 - k = 7 - k + 1 := by omega
    rw [packChunkFrom_cons_toNat hrest, hdouble, Nat.pow_succ]
    rw [hplace] at hrest
    omega

/-- The loop of rule R57 from pixel `k` on gives the sum of its pixels' bits at their places. -/
theorem packChunkFrom_toNat (bits : List Bool) :
    ∀ k, k + bits.length ≤ 8 → (packChunkFrom k bits).toNat =
      ((List.range bits.length).map fun j => (bits.getD j false).toNat * 2 ^ (7 - (k + j))).sum := by
  induction bits with
  | nil => intro k _; rfl
  | cons m ms ih =>
    intro k hk
    rw [List.length_cons] at hk
    have hle : k + 1 + ms.length ≤ 8 := by omega
    rw [packChunkFrom_cons_toNat (packChunkFrom_toNat_lt ms (k + 1) hle), ih (k + 1) hle, List.length_cons,
      List.range_succ_eq_map, List.map_cons, List.sum_cons, List.map_map]
    simp [Function.comp_def, Nat.add_assoc, Nat.add_comm 1]

/-- The byte of a chunk is the sum of its pixels' bits at their places (rule R57). -/
theorem packChunk_toNat {bits : List Bool} (h : bits.length ≤ 8) :
    (packChunk bits).toNat = ((List.range bits.length).map fun j => (bits.getD j false).toNat * 2 ^ (7 - j)).sum := by
  simpa only [packChunk, Nat.zero_add] using packChunkFrom_toNat bits 0 (by omega)

theorem exec_packchunk_of_length {bits : List Bool} (hlo : 1 ≤ bits.length) (hhi : bits.length ≤ 8) (s : State) :
    exec (.packchunk bits) s = .next { s with result := .maskByte (packChunk bits) } := by
  have hok : chunkLengthOk bits = true := decide_eq_true ⟨hlo, hhi⟩
  rw [exec_packchunk, if_pos hok]

/-! ### A line of script (rule R49) -/

/-- A START step performs CONVERT on the dimensions as the ports carry them (rules R45, R63). -/
theorem step_eq_exec_convert {s : State} (hr : (sample s).rst = false) (hidle : s.state = .idle)
    (hstart : (sample s).start = true) :
    step s = exec (.convert (fit s.dimBits (sample s).widthIn) (fit s.dimBits (sample s).heightIn)) (sampled s) := by
  rw [step_of_start hr hidle hstart, exec_convert, sampled_dimBits, fit_fit, fit_fit]

/-- The state with a line of script in front of the lines that follow. -/
abbrev withLine (i : Inputs) (rest : List Inputs) (s : State) : State := { s with script := i :: rest }

theorem sourceImage_withLine {i : Inputs} (himg : i.image = none) (rest : List Inputs) (s : State) :
    sourceImage (withLine i rest s) = s.img := sourceImage_of_none himg

/-- Sampling a line that declares no image uses it up and counts the step (log entries 2 and 3). -/
theorem sampled_withLine {i : Inputs} (himg : i.image = none) (rest : List Inputs) (s : State) :
    sampled (withLine i rest s) = { s with script := rest, tick := s.tick + 1 } := by
  rw [sampled, sourceImage_withLine himg]
  rfl

theorem pixData_withLine {i : Inputs} (himg : i.image = none) (rest : List Inputs) (s : State) :
    pixData (withLine i rest s) = (imgGet s.img (s.y, s.x)).getD (Config.freePixel s.tick) := by
  rw [pixData, pixRead, sourceImage_withLine himg]

/-- In a running frame a line without RESET and without an image is a STEP, whatever `start` and the dimensions are
(rule R68). -/
theorem step_withLine_of_run {i : Inputs} (hr : i.rst = false) (himg : i.image = none) (rest : List Inputs) {s : State}
    (hrun : s.state = .run) :
    step (withLine i rest s) =
      exec (.step ((imgGet s.img (s.y, s.x)).getD (Config.freePixel s.tick)))
        { s with script := rest, tick := s.tick + 1 } := by
  rw [step_of_run (s := withLine i rest s) hr hrun, sampled_withLine himg, pixData_withLine himg, exec_step]

end Sys2Proof.Machine

/-! ### The obligations -/

namespace Sys2Proof.Proofs

open Sys2Proof.Machine

/-- Settles O5: a well-formed operation's wires fit their ports, so they are read back from its word, and the table
decodes them to the operation. -/
theorem decodeOfEncodeIsTheInstruction : Obligations.DecodeOfEncodeIsTheInstruction := by
  intro n i hwf
  refine ⟨fun hop => ?_, fun hop => ?_⟩
  · obtain ⟨s, hs⟩ := Option.isSome_iff_exists.mp ((encodeWord_isSome i).trans hop)
    refine ⟨s.toBits n, by rw [encode, hs, Option.map_some], ?_⟩
    rw [decodeBits_toBits (StepWord.fits_of_wf hwf hs), decode_encodeWord hs]
  · have hnone : encodeWord i = none :=
      Option.isNone_iff_eq_none.mp (Option.isSome_eq_false_iff.mp ((encodeWord_isSome i).trans hop))
    rw [encode, hnone, Option.map_none]

/-- Settles O15: the fields stand side by side in the color word, and alpha is the low byte of the pixel word. -/
theorem outputBitsAreSelected : Obligations.OutputBitsAreSelected := by
  intro p
  rw [packPixel_eq_append, red5_append, green6_append, blue5_append, maskBit, packMaskBit, byte_ne_zero_eq_or]
  exact ⟨rfl, rfl, rfl, rfl, by simp (disch := decide) only [alpha_getLsbD]⟩

/-- Settles O20: the sum and the bits of a packed chunk. -/
theorem chunkBitsMostSignificantFirst : Obligations.ChunkBitsMostSignificantFirst := by
  intro bits s hlo hhi
  exact ⟨packChunk bits, exec_packchunk_of_length hlo hhi s, packChunk_toNat hhi, fun _ hj => packChunk_getLsbD hhi hj⟩

/-- Settles O1: the patterns test the bits that the decoder tests, and a step performs what is decoded. -/
theorem controlVectorSelectsTheOperation : Obligations.ControlVectorSelectsTheOperation := by
  refine ⟨ctl3_toNat, fun w => ?_, fun s => ⟨step_of_rst, step_of_run, step_eq_exec_convert, step_of_idle⟩⟩
  obtain ⟨hreset, hconvert, hstep, hidle⟩ := ctl_patterns w.ctl
  rw [hreset, hconvert, hstep, hidle]
  rcases decode_cases w with ⟨h2, he⟩ | ⟨h2, h0, he⟩ | ⟨h2, h0, h1, he⟩ | ⟨h2, h0, h1, he⟩
  · simp [he, h2]
  · simp [-BitVec.getLsbD_eq_getElem, he, h2, h0]
  · simp [-BitVec.getLsbD_eq_getElem, he, h2, h0, h1]
  · simp [-BitVec.getLsbD_eq_getElem, he, h2, h0, h1]

/-- Settles O6: wires read out of a number fit their ports. -/
theorem everyWireValueDecodes : Obligations.EveryWireValueDecodes := by
  intro n w
  refine ⟨fun hlt => ?_, fun hle => ?_⟩
  · exact ⟨_, if_pos hlt, decode_wf (StepWord.ofBits_fits n w)⟩
  · exact if_neg (Nat.not_lt.mpr hle)

/-- Settles O47: the step each line stands for, by the inputs that select it. -/
theorem scriptLinesPerformTheirOperations : Obligations.ScriptLinesPerformTheirOperations := by
  intro s rest
  refine ⟨fun b => ?_, fun w h hlegal => ?_, fun hlegal => ?_, fun w h hlegal => ?_, fun hlegal => ?_⟩
  · rw [← sampled_withLine (i := (ScriptLine.reset b).inputs) rfl]
    exact step_of_rst rfl
  · have hidle : s.state = .idle := (not_busy_iff s).mp ((Bool.not_eq_true' _).mp hlegal)
    rw [← sampled_withLine (i := (ScriptLine.convert w h).inputs) rfl]
    exact step_eq_exec_convert rfl hidle rfl
  · refine ⟨_, step_withLine_of_run rfl rfl rest ((busy_iff s).mp hlegal), fun q hq => ?_⟩
    rw [hq, Option.getD_some]
  · have hrun : s.state = .run := (busy_iff s).mp hlegal
    exact (step_withLine_of_run rfl rfl rest hrun).trans (step_withLine_of_run rfl rfl rest hrun).symm
  · have hidle : s.state = .idle := (not_busy_iff s).mp ((Bool.not_eq_true' _).mp hlegal)
    rw [← sampled_withLine (i := ScriptLine.idle.inputs) rfl]
    exact step_of_idle rfl hidle rfl

end Sys2Proof.Proofs
end

section
/-! ## The color packer: the color word as a number, its bytes, and its expansion (40_packcolor.md) -/

namespace Sys2Proof.Machine

/-! ### Bit fields as numbers -/

/-- `{x, y} = x * 2^n + y` (00_scope.md section 4.1). -/
theorem append_toNat {m n : Nat} (x : BitVec m) (y : BitVec n) : (x ++ y).toNat = x.toNat * 2 ^ n + y.toNat := by
  rw [BitVec.toNat_append, ← Nat.shiftLeft_add_eq_or_of_lt y.isLt, Nat.shiftLeft_eq]

/-- Dropping the low `a` bits truncates: no rounding (rule R51). -/
theorem highBits_toNat {v a n : Nat} (hv : v = a + n) (x : BitVec v) : (x.extractLsb' a n).toNat = x.toNat / 2 ^ a := by
  subst hv
  rw [BitVec.extractLsb'_toNat, Nat.shiftRight_eq_div_pow,
    Nat.mod_eq_of_lt (Nat.div_lt_of_lt_mul (Nat.pow_add 2 a n ▸ x.isLt))]

theorem highBits_mono {v a n : Nat} (hv : v = a + n) {x y : BitVec v} (h : x ≤ y) :
    x.extractLsb' a n ≤ y.extractLsb' a n := by
  rw [BitVec.le_def, highBits_toNat hv, highBits_toNat hv]
  exact Nat.div_le_div_right h

/-- A field that still fits after the shift loses no bit (rule R54). -/
theorem zeroExtend_shiftLeft_toNat {n v k : Nat} (hv : n + k ≤ v) (x : BitVec n) :
    (x.zeroExtend v <<< k).toNat = x.toNat * 2 ^ k := by
  have hlt : x.toNat * 2 ^ k < 2 ^ v :=
    calc x.toNat * 2 ^ k < 2 ^ n * 2 ^ k := Nat.mul_lt_mul_of_pos_right x.isLt (Nat.two_pow_pos k)
      _ = 2 ^ (n + k) := (Nat.pow_add 2 n k).symm
      _ ≤ 2 ^ v := Nat.pow_le_pow_right Nat.two_pos hv
  rw [BitVec.zeroExtend_eq_setWidth, BitVec.toNat_shiftLeft,
    BitVec.toNat_setWidth_of_le (Nat.le_of_add_right_le hv), Nat.shiftLeft_eq, Nat.mod_eq_of_lt hlt]

/-! ### The fields and the bytes of a color word (rules R42, R53) -/

theorem red5_toNat (c : Color) : (red5 c).toNat = c.toNat / 2 ^ 11 := by rw [red5, highBits_toNat rfl]

theorem green6_toNat (c : Color) : (green6 c).toNat = c.toNat / 2 ^ 5 % 2 ^ 6 := by
  rw [green6, BitVec.extractLsb'_toNat, Nat.shiftRight_eq_div_pow]

theorem blue5_toNat (c : Color) : (blue5 c).toNat = c.toNat % 2 ^ 5 := by
  rw [blue5, BitVec.extractLsb'_toNat, Nat.shiftRight_zero]

theorem colorHighByte_toNat (c : Color) : (c.extractLsb' 8 8).toNat = c.toNat / 2 ^ 8 := by
  rw [highBits_toNat rfl]

theorem colorLowByte_toNat (c : Color) : (c.extractLsb' 0 8).toNat = c.toNat % 2 ^ 8 := by
  rw [BitVec.extractLsb'_toNat, Nat.shiftRight_zero]

/-! ### The packed word (rules R51, R52) -/

section Packed

variable (r g b a : Byte)

@[simp] theorem red5_packColor : red5 (packColor r g b a) = r.extractLsb' 3 5 := by
  rw [packColor_eq_append, red5_append]

@[simp] theorem green6_packColor : green6 (packColor r g b a) = g.extractLsb' 2 6 := by
  rw [packColor_eq_append, green6_append]

@[simp] theorem blue5_packColor : blue5 (packColor r g b a) = b.extractLsb' 3 5 := by
  rw [packColor_eq_append, blue5_append]

/-- The OR of the shifted channels is their sum (rule R51). -/
theorem packColor_toNat :
    (packColor r g b a).toNat = r.toNat / 8 * 2048 + g.toNat / 4 * 32 + b.toNat / 8 := by
  rw [packColor_eq_append, append_toNat, append_toNat, highBits_toNat rfl, highBits_toNat rfl, highBits_toNat rfl]
  omega

/-- The channels of a color word are those whose high bits are its fields (rule R52(b)). -/
theorem packColor_eq_iff (c : Color) :
    packColor r g b a = c ↔
      r.toNat / 8 = (red5 c).toNat ∧ g.toNat / 4 = (green6 c).toNat ∧ b.toNat / 8 = (blue5 c).toNat := by
  have hg := g.isLt
  have hb := b.isLt
  rw [BitVec.toNat_eq, packColor_toNat, red5_toNat, green6_toNat, blue5_toNat]
  omega

end Packed

/-! ### The expansion of a color word (rule R54) -/

theorem unpack565_red_toNat (c : Color) : (unpack565 c).1.toNat = (red5 c).toNat * 8 :=
  zeroExtend_shiftLeft_toNat (k := 3) (by decide) (red5 c)

theorem unpack565_green_toNat (c : Color) : (unpack565 c).2.1.toNat = (green6 c).toNat * 4 :=
  zeroExtend_shiftLeft_toNat (k := 2) (by decide) (green6 c)

theorem unpack565_blue_toNat (c : Color) : (unpack565 c).2.2.toNat = (blue5 c).toNat * 8 :=
  zeroExtend_shiftLeft_toNat (k := 3) (by decide) (blue5 c)

theorem packColor_unpack565 (c : Color) (a : Byte) :
    packColor (unpack565 c).1 (unpack565 c).2.1 (unpack565 c).2.2 a = c := by
  rw [packColor_eq_iff, unpack565_red_toNat, unpack565_green_toNat, unpack565_blue_toNat]
  simp

/-- Truncating a channel to a multiple of `d` drops its remainder, so it never rises and falls by less than `d`. -/
theorem truncated_channel_bounds {x y : Byte} {d : Nat} (hd : 0 < d) (h : y.toNat = x.toNat / d * d) :
    y.toNat = x.toNat - x.toNat % d ∧ y ≤ x ∧ x.toNat - y.toNat ≤ d - 1 := by
  have hsplit := Nat.div_add_mod' x.toNat d
  have hmod := Nat.mod_lt x.toNat hd
  rw [BitVec.le_def]
  omega

/-! ### The buffers of a frame, by what they read of each pixel (rule R55) -/

/-- The mask bit reads the alpha channel only (rules R55, R56). -/
theorem maskBit_congr {p q : Pix32} (ha : alpha p = alpha q) : maskBit p = maskBit q := by
  simp only [maskBit, packMaskBit, ha]

theorem colorBuffer_congr {w h : Nat} {img img' : ImageFn}
    (heq : ∀ row col, packPixel (img row col) = packPixel (img' row col)) :
    colorBuffer w h img = colorBuffer w h img' := by
  simp only [colorBuffer, rowColors, heq]

theorem maskBuffer_congr {w h : Nat} {img img' : ImageFn}
    (heq : ∀ row col, maskBit (img row col) = maskBit (img' row col)) :
    maskBuffer w h img = maskBuffer w h img' := by
  simp only [maskBuffer, rowBits, heq]

end Sys2Proof.Machine

/-! ### The obligations -/

namespace Sys2Proof.Proofs

open Sys2Proof.Machine

/-- Settles O14: PACKCOLOR answers the packed word, whose value is the sum of its fields at their places. -/
theorem packColorFormula : Obligations.PackColorFormula := by
  intro r g b a s
  refine ⟨packColor r g b a, ?_, packColor_toNat r g b a⟩
  rw [exec_packcolor, packPixel, red_pix32, green_pix32, blue_pix32, alpha_pix32]

/-- Settles O16: a word's expansion is one of its preimages, and each field is its own channel's high bits. -/
theorem everyColorWordHasItsPreimages : Obligations.EveryColorWordHasItsPreimages := by
  refine ⟨fun c => ⟨_, _, _, packColor_unpack565 c⟩, fun c r g b a => packColor_eq_iff r g b a c, ?_, ?_, ?_⟩
  · intro r r' g g' b b' a a' hr
    rw [red5_packColor, red5_packColor]
    exact highBits_mono rfl hr
  · intro r r' g g' b b' a a' hg
    rw [green6_packColor, green6_packColor]
    exact highBits_mono rfl hg
  · intro r r' g g' b b' a a' hb
    rw [blue5_packColor, blue5_packColor]
    exact highBits_mono rfl hb

/-- Settles O18: each unpacked channel is the original truncated to a multiple of 8, 4 and 8. -/
theorem unpackWithinTruncationError : Obligations.UnpackWithinTruncationError := by
  refine ⟨fun r g b a => ?_, by decide, by decide, packColor_unpack565⟩
  obtain ⟨hr, hg, hb⟩ := (packColor_eq_iff r g b a _).mp rfl
  obtain ⟨hr, hrle, hrerr⟩ := truncated_channel_bounds (d := 8) (by decide) (hr ▸ unpack565_red_toNat _)
  obtain ⟨hg, hgle, hgerr⟩ := truncated_channel_bounds (d := 4) (by decide) (hg ▸ unpack565_green_toNat _)
  obtain ⟨hb, hble, hberr⟩ := truncated_channel_bounds (d := 8) (by decide) (hb ▸ unpack565_blue_toNat _)
  exact ⟨hr, hg, hb, hrle, hrerr, hgle, hgerr, hble, hberr⟩

/-- Settles O17: the two bytes as numbers, and the fields that stand in each. -/
theorem serialisationIsBigEndian : Obligations.SerialisationIsBigEndian := by
  intro c s
  refine ⟨_, _, exec_ser16be c s, colorHighByte_toNat c, colorLowByte_toNat c, ?_, ?_⟩
  · rw [colorHighByte_toNat, red5_toNat, green6_toNat]; omega
  · rw [colorLowByte_toNat, green6_toNat, blue5_toNat]; omega

/-- Settles O30: the packed color of a pixel reads its color channels only, and its mask bit its alpha only. -/
theorem colorAndAlphaAreIndependent : Obligations.ColorAndAlphaAreIndependent := by
  refine ⟨fun w h img img' heq => colorBuffer_congr fun row col => ?_,
    fun w h img img' heq => maskBuffer_congr fun row col => maskBit_congr (heq row col)⟩
  obtain ⟨hr, hg, hb⟩ := heq row col
  exact packPixel_congr hr hg hb

end Sys2Proof.Proofs
end

section
/-! ## The mask encoder: the bytes of a chunk, the chunks of a row, and the 1 bits of a frame (41_packmask.md) -/

namespace Sys2Proof.Machine

/-! ### The mask bit (rule R56) -/

theorem maskBit_eq_alpha_ne_zero (p : Pix32) : maskBit p = (alpha p != 0) := rfl

theorem maskBit_iff (p : Pix32) : maskBit p = true ↔ (alpha p).toNat ≠ 0 := by
  rw [maskBit_eq_alpha_ne_zero, bne_iff_ne, BitVec.toNat_ne]
  rfl

/-! ### The bytes a chunk reaches (rule R59(c)) -/

/-- A byte is a chunk's exactly when its bits, most significant first, are the chunk's and then padding 0. -/
theorem packChunk_eq_iff {bits : List Bool} (h : bits.length ≤ 8) (b : Byte) :
    packChunk bits = b ↔ ∀ j, j < 8 → b.getLsbD (7 - j) = bits.getD j false := by
  refine ⟨fun heq j hj => heq ▸ packChunk_getLsbD h hj, fun hbits => BitVec.eq_of_getLsbD_eq fun i hi => ?_⟩
  have hplace : 7 - (7 - i) = i := by omega
  rw [← hplace, packChunk_getLsbD h (by omega), hbits (7 - i) (by omega)]

/-- The low bits of a word are 0 exactly when each of them is. -/
theorem toNat_mod_two_pow_eq_zero_iff {v : Nat} (x : BitVec v) (n : Nat) :
    x.toNat % 2 ^ n = 0 ↔ ∀ i, i < n → x.getLsbD i = false := by
  have hbit : ∀ i, (x.toNat % 2 ^ n).testBit i = (decide (i < n) && x.getLsbD i) := fun i => by
    rw [Nat.testBit_mod_two_pow, BitVec.testBit_toNat]
  constructor
  · intro h i hi
    rw [← Nat.zero_testBit i, ← h, hbit, decide_eq_true hi, Bool.true_and]
  · intro h
    refine Nat.eq_of_testBit_eq fun i => ?_
    rw [hbit, Nat.zero_testBit, Bool.and_eq_false_imp]
    exact fun hi => h i (of_decide_eq_true hi)

/-- The `k` most significant bits of a byte, as the pixels of a chunk (rule R44). -/
def topBits (k : Nat) (b : Byte) : List Bool := (List.range k).map fun j => b.getLsbD (7 - j)

@[simp] theorem topBits_length (k : Nat) (b : Byte) : (topBits k b).length = k := by simp [topBits]

theorem topBits_getD (k : Nat) (b : Byte) (j : Nat) :
    (topBits k b).getD j false = (decide (j < k) && b.getLsbD (7 - j)) := by
  by_cases hj : j < k <;> simp [topBits, List.getD_eq_getElem?_getD, hj]

/-- A byte whose low bits are 0 is the chunk of its top bits. -/
theorem packChunk_topBits {k : Nat} {b : Byte} (hk : k ≤ 8) (hb : b.toNat % 2 ^ (8 - k) = 0) :
    packChunk (topBits k b) = b := by
  rw [packChunk_eq_iff (by simpa using hk)]
  intro j hj
  rw [topBits_getD]
  by_cases hjk : j < k
  · simp only [hjk, decide_true, Bool.true_and]
  · rw [(toNat_mod_two_pow_eq_zero_iff b _).mp hb (7 - j) (by omega), Bool.and_false]

/-- A chunk of `k` pixels leaves the low `8 - k` bits 0 (rules R28, R57). -/
theorem packChunk_padding {bits : List Bool} (h : bits.length ≤ 8) :
    (packChunk bits).toNat % 2 ^ (8 - bits.length) = 0 := by
  refine (toNat_mod_two_pow_eq_zero_iff _ _).mpr fun i hi => ?_
  have hplace : 7 - (7 - i) = i := by omega
  rw [← hplace, packChunk_getLsbD h (by omega), List.getD_eq_default _ _ (by omega)]

/-! ### The chunks of a row (rule R58) -/

/-- Chunk `j` of a row holds columns `8j` to `min(8j + 7, w - 1)`. -/
theorem chunk_eq_map_columns {bits : List Bool} {j : Nat} (hj : j < stride bits.length) :
    chunk bits j =
      (List.range (min (8 * j + 7) (bits.length - 1) + 1 - 8 * j)).map fun k => bits.getD (8 * j + k) false := by
  have hlen : (chunk bits j).length = min (8 * j + 7) (bits.length - 1) + 1 - 8 * j := by
    rw [chunk, List.length_take, List.length_drop]
    unfold stride at hj
    omega
  refine List.ext_getElem (by simpa using hlen) fun k hk _ => ?_
  have hk8 : k < 8 := hk.trans_le (chunk_length_le bits j)
  rw [List.getElem_map, List.getElem_range, ← chunk_getD bits j k hk8, List.getD_eq_getElem _ _ hk]

/-! ### The 1 bits of a frame (rule R59(d)) -/

/-- The number of 1 bits of a byte. -/
def ones (b : Byte) : Nat := ((List.range 8).filter fun j => b.getLsbD j).length

/-- The 1 bits counted from the most significant one, as a chunk's pixels come. -/
theorem ones_eq_countP (b : Byte) : ones b = (List.range 8).countP fun j => b.getLsbD (7 - j) := by
  have hrev : List.range 8 = ((List.range 8).map (7 - ·)).reverse := by decide
  rw [ones, ← List.countP_eq_length_filter, hrev, List.countP_reverse, List.countP_map, ← hrev]
  rfl

/-- Positions past the end of a list of bits add nothing to the count of its 1s. -/
theorem countP_getD (bits : List Bool) :
    ∀ n, bits.length ≤ n → (List.range n).countP (fun j => bits.getD j false) = bits.count true := by
  induction bits with
  | nil => intro n _; simp
  | cons m ms ih =>
    intro n hn
    cases n with
    | zero => exact absurd hn (Nat.not_succ_le_zero _)
    | succ n =>
      rw [List.range_succ_eq_map, List.countP_cons, List.countP_map, List.count_cons,
        ← ih n (Nat.le_of_succ_le_succ hn)]
      simp [Function.comp_def]

/-- A packed chunk has a 1 bit for each opaque pixel: the places are distinct and the padding is 0. -/
theorem ones_packChunk {bits : List Bool} (h : bits.length ≤ 8) : ones (packChunk bits) = bits.count true := by
  rw [ones_eq_countP, ← countP_getD bits 8 h]
  refine List.countP_congr fun j hj => ?_
  rw [packChunk_getLsbD h (List.mem_range.mp hj)]

/-- The first `n` chunks of a row hold the 1s of its first `8n` columns. -/
theorem sum_count_chunk (bits : List Bool) (n : Nat) :
    ((List.range n).map fun j => (chunk bits j).count true).sum = (bits.take (8 * n)).count true := by
  induction n with
  | zero => rfl
  | succ n ih => rw [List.sum_range_succ, ih, Nat.mul_succ, List.take_add, List.count_append, chunk]

/-- A packed row has a 1 bit for each opaque pixel: its chunks cover it. -/
theorem sum_ones_packRow (bits : List Bool) : ((packRow bits).map ones).sum = bits.count true := by
  have hcover : bits.length ≤ 8 * stride bits.length := by unfold stride; omega
  have hones : ∀ j, ones (packChunk (chunk bits j)) = (chunk bits j).count true :=
    fun j => ones_packChunk (chunk_length_le bits j)
  calc ((packRow bits).map ones).sum
      = ((List.range (stride bits.length)).map fun j => (chunk bits j).count true).sum := by
        simp only [packRow, List.map_map, Function.comp_def, hones]
    _ = bits.count true := by rw [sum_count_chunk, List.take_of_length_le hcover]

/-- The opaque pixels of a row (rule R60). -/
theorem count_rowBits (img : ImageFn) (w row : Nat) :
    (rowBits img w row).count true = ((List.range w).filter fun col => alpha (img row col) != 0).length := by
  rw [rowBits, List.count_eq_countP, List.countP_map, List.countP_eq_length_filter]
  simp only [Function.comp_def, maskBit_eq_alpha_ne_zero, beq_true]

end Sys2Proof.Machine

/-! ### The obligations -/

namespace Sys2Proof.Proofs

open Sys2Proof.Machine

/-- Settles O22: PACKROW packs the row's chunks, and a chunk is the list of its columns. -/
theorem rowIsPackedInChunks : Obligations.RowIsPackedInChunks := by
  intro bits s
  refine ⟨packRow bits, exec_packrow bits s, packRow_length bits, fun j hj => ?_⟩
  rw [packRow_getElem? bits hj, chunk_eq_map_columns hj]

/-- Settles O23: a chunk pads with 0, and a padded byte is the chunk of its own top bits. -/
theorem chunkReachesExactlyThePaddedBytes : Obligations.ChunkReachesExactlyThePaddedBytes := by
  intro k b _ hk
  constructor
  · rintro ⟨bits, rfl, rfl⟩
    exact packChunk_padding hk
  · exact fun hb => ⟨topBits k b, topBits_length k b, packChunk_topBits hk hb⟩

/-- Settles O28: the 1 bits add up over the rows, and a packed row has one for each opaque pixel. -/
theorem maskOnesCountTheOpaquePixels : Obligations.MaskOnesCountTheOpaquePixels := by
  intro w h img
  change ((maskBuffer w h img).map ones).sum = _
  rw [maskBuffer, List.map_flatMap, List.flatMap_def, List.sum_flatten, List.map_map]
  simp only [Function.comp_def, sum_ones_packRow, count_rowBits]

/-- Settles O19: the output is the mask bit of the pixel word, which tests its alpha channel. -/
theorem maskBitIsAlphaNotZero : Obligations.MaskBitIsAlphaNotZero := by
  intro r g b a s
  refine ⟨maskBit (pix32 r g b a), exec_packmaskbit _ s, ?_⟩
  rw [maskBit_iff, alpha_pix32]

end Sys2Proof.Proofs
end

section
/-! ## The frame: what a step operation does to the scan, and what the STEPs of a frame build (42_convert.md) -/

namespace Sys2Proof.Machine

open Sys2Proof.Safety

/-! ### The last pixel (rules R11, R66) -/

/-- In a running block the last pixel has the last linear index, and no other pixel has it (rule R66). -/
theorem lastPixel_iff_index {s : State} (hin : ScanInside s) (hrun : s.state = .run) :
    s.x + 1 = s.width ∧ s.y + 1 = s.height ↔ s.y * s.width + s.x + 1 = s.width * s.height := by
  obtain ⟨_, _, hx, hy, _⟩ := hin hrun
  refine ⟨fun ⟨hcol, hrow⟩ => ?_, fun hindex => ?_⟩
  · rw [← hrow, Nat.mul_succ, Nat.mul_comm s.width]; omega
  · have hrow : s.y + 1 = s.height := by
      by_contra hne
      have := rowMajor_lt (w := s.width) (show s.y + 1 < s.height by omega) (show 0 < s.width by omega)
      rw [Nat.succ_mul] at this
      omega
    rw [← hrow, Nat.mul_succ, Nat.mul_comm s.width] at hindex
    exact ⟨by omega, hrow⟩

/-- The STEP of the last pixel ends the frame at the origin with the accumulator clear (rules R11, R64). -/
theorem stepped_of_lastPixel (p : Pix32) {s : State} (hcol : s.x + 1 = s.width) (hrow : s.y + 1 = s.height) :
    (stepped p s).state = .idle ∧ (stepped p s).done = true ∧ (stepped p s).x = 0 ∧ (stepped p s).y = 0 ∧
      (stepped p s).macc = 0 := by
  have hpixel : lastPixel s = true := (lastPixel_iff s).mpr ⟨hcol, hrow⟩
  refine ⟨?_, ?_, ?_, ?_, stepped_macc_of_lastCol p hcol⟩
  · rw [stepped_state, stepState, if_pos hpixel]
  · rw [stepped_done, stepDone, if_pos hpixel]
  · rw [stepped_x, nextX, if_pos ((lastCol_iff s).mpr hcol)]
  · rw [stepped_y, nextY, if_pos ((lastCol_iff s).mpr hcol), if_pos ((lastRow_iff s).mpr hrow)]

/-! ### The buffers of a frame: their lengths, and what one more pixel adds -/

@[simp] theorem colorBuffer_length (w h : Nat) (img : ImageFn) : (colorBuffer w h img).length = 2 * w * h := by
  simp only [colorBuffer, List.length_flatMap, rowColors_length, List.map_const', List.length_range,
    List.sum_replicate, smul_eq_mul]
  ring

@[simp] theorem maskBuffer_length (w h : Nat) (img : ImageFn) : (maskBuffer w h img).length = h * stride w := by
  simp [maskBuffer, List.length_flatMap]

/-- The color bytes up to a pixel are those before it and its own two (rule R26). -/
theorem colorBuffer_take_succ {w h : Nat} (img : ImageFn) {row col : Nat} (hrow : row < h) (hcol : col < w) :
    (colorBuffer w h img).take (2 * (row * w + col + 1)) =
      (colorBuffer w h img).take (2 * (row * w + col)) ++ ser16be (packPixel (img row col)) := by
  have hfirst := colorBuffer_getElem? img hrow hcol Nat.zero_lt_two
  have hsecond := colorBuffer_getElem? img hrow hcol Nat.one_lt_two
  rw [Nat.add_zero] at hfirst
  rw [Nat.mul_succ, List.take_add_one, List.take_add_one, List.append_assoc, hfirst, hsecond]
  rfl

/-- The mask bytes up to a chunk are those before it and its own (rule R27). -/
theorem maskBuffer_take_succ {w h : Nat} (img : ImageFn) {row j : Nat} (hrow : row < h) (hj : j < stride w) :
    (maskBuffer w h img).take (row * stride w + j + 1) =
      (maskBuffer w h img).take (row * stride w + j) ++ [packChunk (chunk (rowBits img w row) j)] := by
  rw [List.take_add_one, maskBuffer_getElem? img hrow hj, Option.toList_some]

/-! ### The chunk in progress (rules R10, R57) -/

@[simp] theorem chunkSoFar_length (img : ImageFn) (row col : Nat) : (chunkSoFar img row col).length = col % 8 := by
  simp [chunkSoFar]

theorem chunkSoFar_of_chunk_start (img : ImageFn) (row : Nat) {col : Nat} (h : col % 8 = 0) :
    chunkSoFar img row col = [] := List.eq_nil_of_length_eq_zero (by simpa using h)

/-- The bits of the chunk in progress with the coming pixel's. -/
theorem chunkSoFar_append (img : ImageFn) (row col : Nat) :
    chunkSoFar img row col ++ [maskBit (img row col)] =
      (List.range (col % 8 + 1)).map fun k => maskBit (img row (8 * (col / 8) + k)) := by
  have hstart : col - col % 8 = 8 * (col / 8) := by omega
  rw [List.range_succ, List.map_append, chunkSoFar, hstart, List.map_singleton, Nat.div_add_mod]

/-- Inside a chunk one more pixel makes the chunk in progress at the next column. -/
theorem chunkSoFar_succ (img : ImageFn) (row : Nat) {col : Nat} (h : col % 8 ≠ 7) :
    chunkSoFar img row (col + 1) = chunkSoFar img row col ++ [maskBit (img row col)] := by
  have hlen : (col + 1) % 8 = col % 8 + 1 := by omega
  have hstart : col + 1 - (col % 8 + 1) = 8 * (col / 8) := by omega
  rw [chunkSoFar_append, chunkSoFar, hlen, hstart]

/-- At a chunk end the chunk in progress and the coming pixel are the row's chunk (rule R58). -/
theorem chunkSoFar_append_eq_chunk (img : ImageFn) {w row col : Nat} (hcol : col < w)
    (hend : col % 8 = 7 ∨ col + 1 = w) :
    chunkSoFar img row col ++ [maskBit (img row col)] = chunk (rowBits img w row) (col / 8) := by
  have hlen : min (8 * (col / 8) + 7) (w - 1) + 1 - 8 * (col / 8) = col % 8 + 1 := by omega
  rw [chunkSoFar_append, chunk_eq_map_columns (by rw [rowBits_length]; unfold stride; omega), rowBits_length, hlen]
  refine List.map_congr_left fun k hk => ?_
  have hin : 8 * (col / 8) + k < w := by
    have := List.mem_range.mp hk
    omega
  rw [rowBits_getD, decide_eq_true hin, Bool.true_and]

/-! ### The prefixes of a frame that a running block holds (rule R67) -/

/-- The block has processed the pixels of `img` before its scan position: the buffers are the prefixes of those of
`convert` for its dimensions, and the accumulator holds the chunk in progress. -/
structure HoldsPrefixes (img : ImageFn) (s : State) : Prop where
  cbuf : s.cbuf = (colorBuffer s.width s.height img).take (2 * (s.y * s.width + s.x))
  mbuf : s.mbuf = (maskBuffer s.width s.height img).take (s.y * stride s.width + s.x / 8)
  macc : s.macc = packChunk (chunkSoFar img s.y s.x)

section HoldsPrefixes

variable {img : ImageFn} {s : State}

/-- A legal running block at the origin has appended nothing and merged nothing. -/
theorem holdsPrefixes_of_origin (h : StateRules s) (hrun : s.state = .run) (hx : s.x = 0) (hy : s.y = 0) :
    HoldsPrefixes img s := by
  obtain ⟨_, _, _, hpad, hlens, _, _⟩ := h
  obtain ⟨hcbuf, hmbuf⟩ := hlens hrun
  have hmacc : s.macc = 0 := BitVec.eq_of_toNat_eq (by simpa [hx, Nat.mod_eq_of_lt s.macc.isLt] using hpad hrun)
  exact {
    cbuf := by simpa [hx, hy] using hcbuf
    mbuf := by simpa [hx, hy] using hmbuf
    macc := by rw [chunkSoFar_of_chunk_start img _ (by rw [hx]), hmacc]; rfl }

/-- Presenting the inputs of a step touches nothing that the prefixes are stated in. -/
theorem HoldsPrefixes.sampled (h : HoldsPrefixes img s) : HoldsPrefixes img (sampled s) := ⟨h.cbuf, h.mbuf, h.macc⟩

theorem HoldsPrefixes.mergeBit_eq (h : HoldsPrefixes img s) :
    mergeBit (img s.y s.x) s = packChunk (chunkSoFar img s.y s.x ++ [maskBit (img s.y s.x)]) := by
  rw [packChunk_append, chunkSoFar_length, mergeBit, h.macc]

/-- A STEP on the image's pixel appends the next two bytes of the color buffer (rules R60, R64). -/
theorem HoldsPrefixes.stepped_cbuf_eq_take (h : HoldsPrefixes img s) (hx : s.x < s.width) (hy : s.y < s.height) :
    (stepped (img s.y s.x) s).cbuf =
      (colorBuffer s.width s.height img).take (2 * (s.y * s.width + s.x + 1)) := by
  rw [stepped_cbuf, h.cbuf, colorBuffer_take_succ img hy hx]

/-- At a chunk end a STEP on the image's pixel appends the next byte of the mask buffer (rules R60, R64). -/
theorem HoldsPrefixes.stepped_mbuf_eq_take (h : HoldsPrefixes img s) (hx : s.x < s.width) (hy : s.y < s.height)
    (hend : s.x % 8 = 7 ∨ s.x + 1 = s.width) :
    (stepped (img s.y s.x) s).mbuf =
      (maskBuffer s.width s.height img).take (s.y * stride s.width + s.x / 8 + 1) := by
  rw [stepped_mbuf, if_pos ((chunkEnd_iff s).mpr hend), h.mergeBit_eq, chunkSoFar_append_eq_chunk img hx hend, h.mbuf,
    maskBuffer_take_succ img hy (by unfold stride; omega)]

/-- Inside a row a STEP on the image's pixel leaves the prefixes up to the next column. -/
theorem HoldsPrefixes.stepped_in_row (h : HoldsPrefixes img s) (hy : s.y < s.height) (hcol : s.x + 1 < s.width)
    (hx' : (stepped (img s.y s.x) s).x = s.x + 1) (hy' : (stepped (img s.y s.x) s).y = s.y) :
    HoldsPrefixes img (stepped (img s.y s.x) s) := by
  have hx : s.x < s.width := Nat.lt_of_succ_lt hcol
  have hcbuf := h.stepped_cbuf_eq_take hx hy
  by_cases h7 : s.x % 8 = 7
  · have hbyte : (s.x + 1) / 8 = s.x / 8 + 1 := by omega
    have hmbuf := h.stepped_mbuf_eq_take hx hy (.inl h7)
    refine ⟨?_, ?_, ?_⟩ <;> rw [hx', hy']
    · rwa [stepped_width, stepped_height]
    · rwa [stepped_width, stepped_height, hbyte]
    · rw [stepped_macc, if_pos ((chunkEnd_iff s).mpr (.inl h7)), chunkSoFar_of_chunk_start img _ (by omega)]; rfl
  · have hbyte : (s.x + 1) / 8 = s.x / 8 := by omega
    have hend : ¬ chunkEnd s = true := by rw [chunkEnd_iff]; omega
    refine ⟨?_, ?_, ?_⟩ <;> rw [hx', hy']
    · rwa [stepped_width, stepped_height]
    · rw [stepped_mbuf, if_neg hend, h.mbuf, hbyte, stepped_width, stepped_height]
    · rw [stepped_macc, if_neg hend, h.mergeBit_eq, chunkSoFar_succ img _ h7]

/-- At a row's end a STEP on the image's pixel completes the row's bytes in both buffers. -/
theorem HoldsPrefixes.stepped_row_end (h : HoldsPrefixes img s) (hy : s.y < s.height) (hcol : s.x + 1 = s.width) :
    (stepped (img s.y s.x) s).cbuf = (colorBuffer s.width s.height img).take (2 * ((s.y + 1) * s.width)) ∧
    (stepped (img s.y s.x) s).mbuf = (maskBuffer s.width s.height img).take ((s.y + 1) * stride s.width) := by
  have hx : s.x < s.width := by omega
  have hcols : s.y * s.width + s.x + 1 = (s.y + 1) * s.width := by rw [Nat.succ_mul]; omega
  have hbytes : s.y * stride s.width + s.x / 8 + 1 = (s.y + 1) * stride s.width := by
    have : stride s.width = s.x / 8 + 1 := by unfold stride; omega
    rw [Nat.succ_mul]; omega
  exact ⟨hcols ▸ h.stepped_cbuf_eq_take hx hy, hbytes ▸ h.stepped_mbuf_eq_take hx hy (.inr hcol)⟩

/-- A STEP on the image's pixel that leaves the frame running leaves it with the prefixes up to the next pixel. -/
theorem HoldsPrefixes.stepped_of_run (h : HoldsPrefixes img s) (hlegal : StateRules s) (hrun : s.state = .run)
    (hrun' : (stepped (img s.y s.x) s).state = .run) :
    HoldsPrefixes img (stepped (img s.y s.x) s) := by
  obtain ⟨hfits, _, hin, _⟩ := hlegal
  obtain ⟨_, _, _, hy, _⟩ := hin hrun
  rcases stepped_scan_cases (img s.y s.x) hfits hin hrun with ⟨hcol, hx', hy', _⟩ | ⟨hcol, _, hx', hy', _⟩ |
    ⟨_, _, _, _, hidle', _⟩
  · exact h.stepped_in_row hy hcol hx' hy'
  · obtain ⟨hcbuf, hmbuf⟩ := h.stepped_row_end hy hcol
    refine ⟨?_, ?_, ?_⟩ <;> rw [hx', hy']
    · simpa using hcbuf
    · simpa using hmbuf
    · rw [stepped_macc_of_lastCol _ hcol]; rfl
  · exact absurd (hrun'.symm.trans hidle') (by decide)

/-- The STEP of the last pixel completes both buffers (rules R60, R64). -/
theorem HoldsPrefixes.stepped_last (h : HoldsPrefixes img s) (hcol : s.x + 1 = s.width) (hrow : s.y + 1 = s.height) :
    ((stepped (img s.y s.x) s).cbuf, (stepped (img s.y s.x) s).mbuf) = convert s.width s.height img := by
  obtain ⟨hcbuf, hmbuf⟩ := h.stepped_row_end (by omega) hcol
  have hclen : (colorBuffer s.width s.height img).length ≤ 2 * ((s.y + 1) * s.width) := by
    rw [colorBuffer_length, hrow, Nat.mul_assoc, Nat.mul_comm s.width]
  have hmlen : (maskBuffer s.width s.height img).length ≤ (s.y + 1) * stride s.width := by
    rw [maskBuffer_length, hrow]
  rw [hcbuf, hmbuf, List.take_of_length_le hclen, List.take_of_length_le hmlen, convert]

end HoldsPrefixes

/-! ### The STEPs of a frame whose host keeps the contract -/

section FrameAt

variable {s t : State} {w h n : Nat} {img : ImageFn}

/-- A STEP of a frame is a STEP on the image's pixel at the scan position (rules R24, R64). -/
theorem FrameAt.step_eq (hat : FrameAt s w h n t) (hahead : FrameAhead s w h img) (hn : n < w * h) :
    step t = .next (stepped (img t.y t.x) (sampled t)) := by
  obtain ⟨_, hquiet, hans⟩ := hahead
  obtain ⟨hr, himg⟩ := hat.sample_quiet hquiet hn
  obtain ⟨hrow, hcol⟩ := Prod.mk.inj hat.position
  rw [step_of_run hr hat.running, hat.pixData_eq himg hans, hrow, hcol]

/-- Every STEP of a frame leaves the block at the next index, with the prefixes up to there. -/
theorem frameAt_run_prefixes (hahead : FrameAhead s w h img) (hn : n < w * h) :
    ∃ t, Sys2Proof.core.run (1 + n) s = .next t ∧ FrameAt s w h n t ∧ HoldsPrefixes img t := by
  have ⟨hstart, hquiet, _⟩ := hahead
  induction n with
  | zero =>
    obtain ⟨t, hstep, hat⟩ := frameAt_start hstart hn
    obtain ⟨hy, hx⟩ := Prod.mk.inj hat.position
    exact ⟨t, run_snoc 0 (run_zero s) hstep, hat,
      holdsPrefixes_of_origin hat.legal hat.running (hx.trans (Nat.zero_mod w)) (hy.trans (Nat.zero_div w))⟩
  | succ n ih =>
    obtain ⟨t, hrun, hat, hpre⟩ := ih (Nat.lt_of_succ_lt hn)
    have hstep := hat.step_eq hahead (Nat.lt_of_succ_lt hn)
    have hat' := hat.step_next hquiet hn hstep
    exact ⟨_, run_snoc (1 + n) hrun hstep, hat',
      hpre.sampled.stepped_of_run (stateRules_sampled hat.legal) hat.running hat'.running⟩

/-- A block that holds the prefixes of its frame is in the middle of it, as rule R67 says. -/
theorem FrameAt.midFrame (hat : FrameAt s w h n t) (hpre : HoldsPrefixes img t) : MidFrame t w h img n := by
  obtain ⟨_, _, hin, _⟩ := hat.legal
  obtain ⟨_, _, _, _, hdone⟩ := hin hat.running
  obtain ⟨hy, hx⟩ := Prod.mk.inj hat.position
  have hcbuf := hpre.cbuf
  have hmbuf := hpre.mbuf
  rw [hat.width, hat.height] at hcbuf hmbuf
  exact ⟨hat.running, hdone, hat.width, hat.height, hy, hx, hat.index ▸ hcbuf, hmbuf, hpre.macc⟩

/-- The STEP of a frame's last pixel ends it (rules R64, R71). -/
theorem FrameAt.step_last (hat : FrameAt s w h n t) (hpre : HoldsPrefixes img t) (hahead : FrameAhead s w h img)
    (hn : n + 1 = w * h) : ∃ u, step t = .next u ∧ FrameDone u w h img := by
  have ⟨_, _, hin, _⟩ := hat.legal
  obtain ⟨hcol, hrow⟩ : t.x + 1 = t.width ∧ t.y + 1 = t.height :=
    (lastPixel_iff_index hin hat.running).mpr (by rw [hat.width, hat.height, hat.index, hn])
  obtain ⟨hidle, hdone, hx, hy, hmacc⟩ := stepped_of_lastPixel (s := sampled t) (img t.y t.x) hcol hrow
  have hbuf := hpre.sampled.stepped_last hcol hrow
  rw [sampled_width, sampled_height, hat.width, hat.height] at hbuf
  exact ⟨_, hat.step_eq hahead (by omega), hidle, hdone, (stepped_width _ _).trans hat.width,
    (stepped_height _ _).trans hat.height, hx, hy, hmacc, hbuf⟩

end FrameAt

/-! ### The START of a frame, and a frame without pixels (rules R62, R63) -/

theorem startFrame_of_pixels (s : State) {w h : Nat} (hw : w ≠ 0) (hh : h ≠ 0) :
    (startFrame w h s).state = .run ∧ (startFrame w h s).done = false := by
  refine ⟨(startState_eq_run_iff w h).mpr ⟨hw, hh⟩, ?_⟩
  rw [startFrame_done, ← Bool.not_eq_true, startDone_iff]
  omega

theorem startFrame_of_no_pixels (s : State) {w h : Nat} (hzero : w = 0 ∨ h = 0) :
    (startFrame w h s).state = .idle ∧ (startFrame w h s).done = true :=
  ⟨if_pos ((degenerate_iff w h).mpr hzero), (startDone_iff w h).mpr hzero⟩

theorem convert_of_no_pixels {w h : Nat} (img : ImageFn) (hzero : w = 0 ∨ h = 0) : convert w h img = ([], []) := by
  have hc : colorBuffer w h img = [] := List.eq_nil_of_length_eq_zero (by rcases hzero with rfl | rfl <;> simp)
  have hm : maskBuffer w h img = [] := List.eq_nil_of_length_eq_zero (by rcases hzero with rfl | rfl <;> simp [stride])
  rw [convert, hc, hm]

/-- The dimensions of a well-formed CONVERT are what its ports carry (rule R45). -/
theorem lt_of_convert_wf {n w h : Nat} (hwf : (Instr.convert w h).wf n = true) : w < 2 ^ n ∧ h < 2 ^ n := by
  obtain ⟨hw, hh⟩ := (Bool.and_eq_true _ _).mp hwf
  exact ⟨of_decide_eq_true hw, of_decide_eq_true hh⟩

/-- A well-formed CONVERT loads the dimensions as they are (rule R63). -/
theorem exec_convert_of_wf {s : State} {w h : Nat} (hwf : (Instr.convert w h).wf s.dimBits = true) :
    exec (.convert w h) s = .next (startFrame w h s) := by
  obtain ⟨hw, hh⟩ := lt_of_convert_wf hwf
  rw [exec_convert, fit_of_lt hw, fit_of_lt hh]

/-- A scripted START of dimensions that fit the ports accepts the frame (rules R45, R63). -/
theorem step_of_startLine {s : State} {w h : Nat} {im : Option Image} (hidle : s.state = .idle)
    (hwf : (Instr.convert w h).wf s.dimBits = true) (hline : s.script.head? = some ⟨false, true, w, h, im⟩) :
    step s = .next (startFrame w h (sampled s)) := by
  obtain ⟨hw, hh⟩ := lt_of_convert_wf hwf
  obtain ⟨rest, hscript⟩ := List.head?_eq_some_iff.mp hline
  have hsample : sample s = ⟨false, true, w, h, im⟩ := sample_of_script hscript
  rw [step_of_start (by rw [hsample]) hidle (by rw [hsample]), hsample, fit_of_lt hw, fit_of_lt hh]

/-- A frame without pixels is complete after its START (rule R62). -/
theorem frameDone_start_of_no_pixels {s : State} {w h : Nat} (img : ImageFn) (hzero : w = 0 ∨ h = 0) :
    FrameDone (startFrame w h s) w h img := by
  obtain ⟨hidle, hdone⟩ := startFrame_of_no_pixels s hzero
  exact ⟨hidle, hdone, rfl, rfl, rfl, rfl, rfl, (convert_of_no_pixels img hzero).symm⟩

/-! ### A STEP from a legal running state, as rule R64's pseudocode has it -/

/-- The mask bit at its place, by the test of alpha (rule R56). -/
theorem mergeBit_eq_ite (p : Pix32) (s : State) :
    mergeBit p s = s.macc ||| (if alpha p = 0 then 0#8 else 1#8 <<< (7 - s.x % 8)) := by
  rw [mergeBit]
  congr 1
  split
  next ha =>
    have hbit : maskBit p = false := bne_eq_false_iff_eq.mpr ha
    rw [hbit, placeBit]
    exact BitVec.zero_shiftLeft _
  next ha =>
    have hbit : maskBit p = true := bne_iff_ne.mpr ha
    rw [hbit]
    rfl

theorem chunkEnd_iff_of_scanInside {s : State} (hin : ScanInside s) (hrun : s.state = .run) :
    s.x % 8 = 7 ∨ s.x + 1 = s.width ↔ s.x % 8 = 7 ∨ s.x = s.width - 1 := by
  obtain ⟨_, _, hx, _⟩ := hin hrun
  omega

/-- A step that performs STEP performs it on the pixel queried (rules R24, R45). -/
theorem step_eq_exec_step {s : State} (hr : (sample s).rst = false) (hrun : s.state = .run) :
    step s = exec (.step (pixData s)) (sampled s) := (step_of_run hr hrun).trans (exec_step _ _).symm

/-- Outside a running frame nothing is queried and nothing is marked valid (rule R21). -/
theorem ports_quiet_of_idle {s : State} (hidle : s.state = .idle) :
    (ports s).pixReq = false ∧ (ports s).colValid = false ∧ (ports s).maskValid = false := by
  have hbusy : busy s = false := (not_busy_iff s).mpr hidle
  simp [ports, maskValid, colValid, hbusy]

/-! ### Steps that leave the block alone: IDLE, and what a STEP ignores -/

/-- Any number of IDLE steps leave the block as it was (rule R65). -/
theorem run_idle (k : Nat) {s : State} (hidle : s.state = .idle) (hlen : k ≤ s.script.length)
    (hlines : ∀ i ∈ s.script.take k, i.rst = false ∧ i.start = false) :
    ∃ t, Sys2Proof.core.run k s = .next t ∧ SameBlock s t := by
  induction k generalizing s with
  | zero => exact ⟨s, run_zero s, rfl, rfl, rfl, rfl, rfl, rfl, rfl, rfl, rfl⟩
  | succ k ih =>
    obtain ⟨i, rest, hscript⟩ := List.exists_cons_of_length_pos (Nat.zero_lt_of_lt hlen)
    rw [hscript, List.take_succ_cons, List.forall_mem_cons] at hlines
    obtain ⟨⟨hr, hstart⟩, hrest⟩ := hlines
    have hsample := sample_of_script hscript
    have htail : (sampled s).script = rest := by rw [sampled_script, hscript, List.tail_cons]
    obtain ⟨t, hrun, hsame⟩ := ih (s := sampled s) hidle (by simpa [htail, hscript] using hlen) (htail ▸ hrest)
    exact ⟨t, (run_succ k (step_of_idle (hsample ▸ hr) hidle (hsample ▸ hstart))).trans hrun, hsame⟩

/-- Two lines that declare the same image present the same state. -/
theorem sampled_withLine_congr {i j : Inputs} (himg : i.image = j.image) (rest : List Inputs) (s : State) :
    sampled (withLine i rest s) = sampled (withLine j rest s) := by
  simp [sampled, sourceImage, sample, himg]

/-- Two lines that declare the same image have the query answered alike. -/
theorem pixData_withLine_congr {i j : Inputs} (himg : i.image = j.image) (rest : List Inputs) (s : State) :
    pixData (withLine i rest s) = pixData (withLine j rest s) := by
  simp [pixData, pixRead, sourceImage, sample, himg]

/-! ### The pseudo-operations RUN and FRAME (rules R49, R70) -/

/-- The STEPs left of a frame end it, whatever the pixels are; the lines that follow are left. -/
theorem run_steps_left (k : Nat) (rest : List Inputs) {s : State} (hlegal : StateRules s) (hrun : s.state = .run)
    (hleft : s.y * s.width + s.x + k = s.width * s.height) (hscript : s.script = repeatLine k .step ++ rest) :
    ∃ t, Sys2Proof.core.run k s = .next t ∧ StateRules t ∧ t.state = .idle ∧ t.done = true ∧ t.width = s.width ∧
      t.height = s.height ∧ t.script = rest := by
  induction k generalizing s with
  | zero =>
    obtain ⟨_, _, hin, _⟩ := hlegal
    obtain ⟨_, _, hx, hy, _⟩ := hin hrun
    exact absurd hleft (rowMajor_lt hy hx).ne
  | succ k ih =>
    have hline : s.script = ScriptLine.step.inputs :: (repeatLine k .step ++ rest) := hscript
    have hr : (sample s).rst = false := by rw [sample_of_script hline]; rfl
    have hstep := step_of_run hr hrun
    have htail : (stepped (pixData s) (sampled s)).script = repeatLine k .step ++ rest := by
      rw [stepped_script, sampled_script, hline, List.tail_cons]
    have hlegal' := stateRules_stepped (pixData s) (stateRules_sampled hlegal) hrun
    have ⟨hfits, _, hin, _⟩ := hlegal
    rcases Nat.eq_zero_or_pos k with rfl | hk
    · obtain ⟨hcol, hrow⟩ := (lastPixel_iff_index hin hrun).mpr hleft
      obtain ⟨hidle, hdone, _⟩ := stepped_of_lastPixel (s := sampled s) (pixData s) hcol hrow
      exact ⟨_, run_snoc 0 (run_zero s) hstep, hlegal', hidle, hdone, stepped_width _ _, stepped_height _ _, htail⟩
    · obtain ⟨hrun', hindex'⟩ := stepped_index (s := sampled s) (pixData s) hfits hin hrun (by simp; omega)
      rw [sampled_width, sampled_x, sampled_y] at hindex'
      have hleft' : s.y * s.width + s.x + 1 + k = s.width * s.height := by omega
      rw [← hindex'] at hleft'
      obtain ⟨t, ht, hdone⟩ := ih hlegal' hrun' (by rwa [stepped_width, stepped_height]) htail
      rw [stepped_width, stepped_height] at hdone
      exact ⟨t, (run_succ k hstep).trans ht, hdone⟩

/-- The lines of `FRAME w h` end the frame from IDLE, with the lengths of its buffers (rules R61, R70). -/
theorem run_frameLines {s : State} {w h : Nat} {rest : List Inputs} (hidle : s.state = .idle)
    (hwf : (Instr.convert w h).wf s.dimBits = true) (hscript : s.script = frameLines w h ++ rest) :
    ∃ t, Sys2Proof.core.run (1 + w * h) s = .next t ∧ t.state = .idle ∧ t.done = true ∧ t.width = w ∧ t.height = h ∧
      t.cbuf.length = 2 * w * h ∧ t.mbuf.length = h * stride w ∧ t.script = rest := by
  have hstep := step_of_startLine (im := none) hidle hwf (by rw [hscript]; rfl)
  have htail : (startFrame w h (sampled s)).script = repeatLine (w * h) .step ++ rest := by
    rw [startFrame_script, sampled_script, hscript]; rfl
  rw [Nat.add_comm, run_succ _ hstep]
  by_cases hzero : w = 0 ∨ h = 0
  · have hnone : w * h = 0 := Nat.mul_eq_zero.mpr hzero
    obtain ⟨hidle', hdone'⟩ := startFrame_of_no_pixels (sampled s) hzero
    rw [hnone] at htail ⊢
    refine ⟨_, run_zero _, hidle', hdone', rfl, rfl, ?_, ?_, htail⟩ <;> rcases hzero with rfl | rfl <;> simp [stride]
  · obtain ⟨hw0, hh0⟩ := not_or.mp hzero
    obtain ⟨hw, hh⟩ := lt_of_convert_wf hwf
    have hdim : 1 ≤ s.dimBits := Nat.one_le_iff_ne_zero.mpr fun h0 => by rw [h0] at hw; omega
    have hlegal := stateRules_startFrame (s := sampled s) hdim hw hh
    obtain ⟨hrun, _⟩ := startFrame_of_pixels (sampled s) hw0 hh0
    obtain ⟨t, ht, ⟨_, _, _, _, _, hlens, _⟩, hidle', hdone', hwidth, hheight, hrest⟩ :=
      run_steps_left (w * h) rest hlegal hrun (by simp) htail
    obtain ⟨hcbuf, hmbuf⟩ := hlens hidle' hdone'
    rw [startFrame_width] at hwidth
    rw [startFrame_height] at hheight
    rw [hwidth, hheight] at hcbuf hmbuf
    exact ⟨t, ht, hidle', hdone', hwidth, hheight, hcbuf, hmbuf, hrest⟩

/-! ### Rows and pixels apart (rule R69) -/

/-- A chunk of a row reads the alpha channels of its own columns only. -/
theorem chunk_rowBits_congr {img img' : ImageFn} {w row j : Nat} (hj : j < stride w)
    (heq : ∀ col, 8 * j ≤ col → col ≤ 8 * j + 7 → col < w → alpha (img row col) = alpha (img' row col)) :
    chunk (rowBits img w row) j = chunk (rowBits img' w row) j := by
  rw [chunk_eq_map_columns (by rwa [rowBits_length]), chunk_eq_map_columns (by rwa [rowBits_length]), rowBits_length,
    rowBits_length]
  refine List.map_congr_left fun k hk => ?_
  have hlt := List.mem_range.mp hk
  unfold stride at hj
  rw [rowBits_getD, rowBits_getD, maskBit_congr (heq (8 * j + k) (by omega) (by omega) (by omega))]

/-- A frame of one row has that row's bytes. -/
theorem convert_one_row (w : Nat) (img : ImageFn) (row : Nat) :
    convert w 1 (fun _ col => img row col) = (rowColors img w row, packRow (rowBits img w row)) :=
  Prod.ext (List.append_nil _) (List.append_nil _)

end Sys2Proof.Machine

/-! ### The obligations -/

namespace Sys2Proof.Proofs

open Sys2Proof.Machine Sys2Proof.Safety

/-- Settles O45: every STEP keeps the scan at its index and the buffers at their prefixes. -/
theorem frameInProgressHoldsPrefixes : Obligations.FrameInProgressHoldsPrefixes := by
  intro s w h img n hahead hn
  obtain ⟨t, hrun, hat, hpre⟩ := frameAt_run_prefixes hahead hn
  exact ⟨t, hrun, hat.midFrame hpre⟩

/-- Settles O44: a frame without pixels ends with its START, any other with the STEP after the prefixes up to its last
pixel. -/
theorem frameEndsWithConvert : Obligations.FrameEndsWithConvert := by
  intro s w h img hahead
  rcases Nat.eq_zero_or_pos (w * h) with hzero | hpix
  · have ⟨⟨hidle, hw, hh, _, hline⟩, _⟩ := hahead
    have hstep := step_of_startLine hidle ((Bool.and_eq_true _ _).mpr ⟨hw, hh⟩) hline
    rw [hzero]
    exact ⟨_, run_snoc 0 (run_zero s) hstep, frameDone_start_of_no_pixels img (Nat.mul_eq_zero.mp hzero)⟩
  · obtain ⟨n, hn⟩ := Nat.exists_eq_add_one.mpr hpix
    obtain ⟨t, hrun, hat, hpre⟩ := frameAt_run_prefixes (n := n) hahead (by omega)
    obtain ⟨u, hstep, hdone⟩ := hat.step_last hpre hahead hn.symm
    exact ⟨u, hn ▸ run_snoc (1 + n) hrun hstep, hdone⟩

/-- Settles O9: the fields after a STEP and the signals of its step, by where the scan stands. -/
theorem stepProcessesOnePixel : Obligations.StepProcessesOnePixel := by
  refine ⟨fun s p ⟨hfits, _, hin, _⟩ hrun => ?_, fun s ⟨_, _, hin, _⟩ hrun hr => ?_⟩
  · refine ⟨stepped p s, exec_step p s, stepped_cbuf p s, ?_, ?_, stepped_width p s, stepped_height p s,
      exec_sameEnvironment (exec_step p s), stepped_result p s⟩
    · simp only [stepped_mbuf, stepped_macc, chunkEnd_iff, chunkEnd_iff_of_scanInside hin hrun, ← mergeBit_eq_ite]
      split <;> exact ⟨rfl, rfl⟩
    · rcases stepped_scan_cases p hfits hin hrun with ⟨hcol, hscan⟩ | ⟨hcol, hrow, hscan⟩ | ⟨hcol, hrow, hscan⟩
      · rwa [if_pos (by omega)]
      · rwa [if_neg (by omega), if_pos (by omega)]
      · rwa [if_neg (by omega), if_neg (by omega)]
  · have hcol : colValid s = true := (colValid_iff s).mpr ⟨hr, hrun⟩
    refine ⟨step_eq_exec_step hr hrun, (busy_iff s).mpr hrun, rfl, rfl, hcol, ports_colData hcol, ?_, fun hmask => ?_⟩
    · rw [← chunkEnd_iff_of_scanInside hin hrun]
      exact (maskValid_iff s).trans (and_iff_right ⟨hr, hrun⟩)
    · rw [ports_maskData hmask, mergeBit_eq_ite]; rfl

/-- Settles O11: an IDLE step only samples its inputs. -/
theorem idleChangesNothing : Obligations.IdleChangesNothing :=
  ⟨exec_idle, fun _ hidle hr hstart => ⟨step_of_idle hr hidle hstart, ports_quiet_of_idle hidle⟩, fun k _ => run_idle k⟩

/-- Settles O24: every row has the same number of bytes in each buffer. -/
theorem convertLengths : Obligations.ConvertLengths :=
  fun w h img => ⟨colorBuffer_length w h img, maskBuffer_length w h img⟩

/-- Settles O29: what stands at a pixel's and at a chunk's place, and the rows a frame is made of. -/
theorem rowsAndPixelsAreIndependent : Obligations.RowsAndPixelsAreIndependent := by
  refine ⟨fun w h img img' row col k hrow hcol hk hr hg hb => ?_, fun w h img img' row j hrow hj heq => ?_,
    fun w h img => ?_⟩
  · rw [colorBuffer_getElem? img hrow hcol hk, colorBuffer_getElem? img' hrow hcol hk, packPixel_congr hr hg hb]
  · rw [← stride, maskBuffer_getElem? img hrow hj, maskBuffer_getElem? img' hrow hj, chunk_rowBits_congr hj heq]
  · simp only [convert_one_row]
    exact ⟨rfl, rfl⟩

/-- Settles O37: the three moves of the scan, and the last pixel as the one with the last linear index. -/
theorem scanIsRowMajor : Obligations.ScanIsRowMajor := by
  refine ⟨fun s p ⟨hfits, _, hin, _⟩ hrun => ?_, fun s p q => ?_⟩
  · have ⟨_, _, hx, hy, _⟩ := hin hrun
    have hlt := rowMajor_lt hy hx
    refine ⟨stepped p s, exec_step p s, fun hcol => ?_, fun hcol hrow => ?_, fun hcol hrow => ?_, fun hindex => ?_,
      fun hindex => ?_⟩
    · rcases stepped_scan_cases p hfits hin hrun with ⟨_, hx', hy', _⟩ | ⟨_, _⟩ | ⟨_, _⟩
      · exact Prod.ext hy' hx'
      · omega
      · omega
    · rcases stepped_scan_cases p hfits hin hrun with ⟨_, _⟩ | ⟨_, _, hx', hy', _⟩ | ⟨_, _, _⟩
      · omega
      · exact Prod.ext hy' hx'
      · omega
    · obtain ⟨hidle, _, hx', hy', _⟩ := stepped_of_lastPixel p (s := s) (by omega) (by omega)
      exact ⟨Prod.ext hy' hx', hidle⟩
    · obtain ⟨hrun', hindex'⟩ := stepped_index p hfits hin hrun (by omega)
      exact ⟨by rw [stepped_width, hindex'], hrun'⟩
    · obtain ⟨hcol, hrow⟩ := (lastPixel_iff_index hin hrun).mpr (by omega)
      exact (stepped_of_lastPixel p hcol hrow).1
  · refine ⟨_, _, exec_step p s, exec_step q s, ?_⟩
    simp only [stepped_x, stepped_y, stepped_state, stepped_done, and_self]

/-- Settles O48: the lines of `RUN` are the STEPs left of the frame, those of `FRAME` a START and then all its STEPs. -/
theorem runAndFramePseudoOperations : Obligations.RunAndFramePseudoOperations := by
  refine ⟨fun s rest hlegal hrun hscript => ?_, fun s w h rest hidle hwf hscript =>
    ⟨by simp [frameLines, repeatLine, Nat.add_comm], run_frameLines hidle hwf hscript⟩⟩
  have ⟨_, _, hin, _⟩ := hlegal
  obtain ⟨_, _, hx, hy, _⟩ := hin hrun
  have hlt := rowMajor_lt hy hx
  have hleft : stepsLeft s = s.width * s.height - (s.y * s.width + s.x) := if_pos ((busy_iff s).mpr hrun)
  obtain ⟨t, ht, _, hidle, hdone, _, _, hrest⟩ := run_steps_left (stepsLeft s) rest hlegal hrun (by omega) hscript
  exact ⟨t, ht, hidle, hdone, hrest⟩

/-- Settles O8: the fields after a START, and the step of an idle block that performs it. -/
theorem startAcceptsTheFrame : Obligations.StartAcceptsTheFrame := by
  refine ⟨fun s w h hwf => ⟨_, exec_convert_of_wf hwf, rfl, rfl, rfl, rfl, rfl, rfl, rfl, ?_, ⟨rfl, rfl, rfl, rfl⟩, rfl⟩,
    fun s hr hstart hidle => ?_⟩
  · split
    next hzero => exact startFrame_of_no_pixels s hzero
    next hpix =>
      obtain ⟨hw, hh⟩ := not_or.mp hpix
      exact startFrame_of_pixels s hw hh
  · obtain ⟨hreq, hcol, hmask⟩ := ports_quiet_of_idle hidle
    exact ⟨step_eq_exec_convert hr hidle hstart, hcol, hmask, hreq⟩

/-- Settles O12: a STEP reads of its line only whether it has a RESET and which image it declares. -/
theorem startIgnoredWhileRunning : Obligations.StartIgnoredWhileRunning := by
  refine ⟨fun s hrun hr _ => step_eq_exec_step hr hrun, fun s i j rest hrun hi hj himg => ?_,
    fun s hidle hr hstart => ?_⟩
  · rw [step_of_run (s := withLine i rest s) hi hrun, step_of_run (s := withLine j rest s) hj hrun,
      sampled_withLine_congr himg, pixData_withLine_congr himg]
  · rw [decode_stepWord, hr, (not_busy_iff s).mpr hidle, hstart]
    rfl

/-- Settles O25: a frame without pixels has no bytes, and its START leaves the block idle. -/
theorem degenerateFrameIsEmptyAndDone : Obligations.DegenerateFrameIsEmptyAndDone := by
  refine ⟨fun w h img => convert_of_no_pixels img, fun s w h hwf hzero => ?_⟩
  obtain ⟨hidle, hdone⟩ := startFrame_of_no_pixels s hzero
  exact ⟨_, exec_convert_of_wf hwf, hidle, hdone, rfl, rfl, (ports_quiet_of_idle hidle).1⟩

end Sys2Proof.Proofs
end

section
/-! ## The exceptions there are not: every step answers, an unanswered query included (60_exceptions.md) -/

namespace Sys2Proof.Machine

/-- The only refusal is of a chunk outside the domain of rule R57, which no well-formed operation has (log entry 7). -/
theorem exec_answers_of_wf {n : Nat} {i : Instr} (h : i.wf n = true) (s : State) : ∃ t, exec i s = .next t := by
  cases i with
  | packchunk bits =>
    obtain ⟨hlo, hhi⟩ : 1 ≤ bits.length ∧ bits.length ≤ 8 := of_decide_eq_true h
    exact ⟨_, exec_packchunk_of_length hlo hhi s⟩
  | _ => exact ⟨_, rfl⟩

/-- Where the image source has no pixel for the query, `pix_data` is the free word of the step (U4, log entry 4). -/
theorem pixData_of_unanswered {s : State} (h : imgGet (sourceImage s) (s.y, s.x) = none) :
    pixData s = Config.freePixel s.tick := by
  rw [pixData, pixRead, h, Option.getD_none]

end Sys2Proof.Machine

/-! ### The obligations -/

namespace Sys2Proof.Proofs

open Sys2Proof.Machine

/-- Settles O31: the type of faults is empty, and neither a step nor a well-formed operation is refused. -/
theorem nothingFaults : Obligations.NothingFaults :=
  ⟨⟨nofun⟩, step_answers, fun s _ _ hwf => exec_answers_of_wf hwf s⟩

/-- Settles O41: the step is a STEP on what `pix_data` carries, which is then the free word. -/
theorem unansweredQueryIsPackedAsItComes : Obligations.UnansweredQueryIsPackedAsItComes := by
  intro s hrun hr hnone
  rw [← pixData_of_unanswered hnone]
  exact ⟨step_eq_exec_step hr hrun, _, step_of_run hr hrun, stepped_cbuf _ _⟩

end Sys2Proof.Proofs
end

section
/-! ## RESET, and the dimension inputs outside START (70_reset_and_hazards.md) -/

namespace Sys2Proof.Machine

open Sys2Proof.Safety

/-! ### RESET (rules R19, R85) -/

/-- RESET puts the nine items at their reset values and leaves the datapath output as it was (log entry 6). -/
theorem exec_reset_resetValues (s : State) :
    ∃ t, exec .reset s = .next t ∧ ResetValues t ∧ t.result = s.result :=
  ⟨_, exec_reset s, ⟨rfl, rfl, rfl, rfl, rfl, rfl, rfl, rfl, rfl⟩, rfl⟩

/-- A block that has its reset values already is left as it is by RESET. -/
theorem exec_reset_of_resetValues {t : State} (h : ResetValues t) : exec .reset t = .next t := by
  obtain ⟨width, height, x, y, macc, state, done, cbuf, mbuf, _, _, _, _, _⟩ := t
  obtain ⟨rfl, rfl, rfl, rfl, rfl, rfl, rfl, rfl, rfl⟩ := h
  exact exec_reset _

theorem step_eq_exec_reset {s : State} (hr : (sample s).rst = true) : step s = exec .reset (sampled s) :=
  (step_of_rst hr).trans (exec_reset _).symm

/-- A RESET step marks nothing valid, in a running frame too (rule R21). -/
theorem ports_invalid_of_rst {s : State} (hr : (sample s).rst = true) :
    (ports s).colValid = false ∧ (ports s).maskValid = false := by
  have hcol : colValid s = false := by rw [colValid, hr]; rfl
  exact ⟨hcol, by rw [ports, maskValid, hcol, Bool.false_and]⟩

/-! ### The dimension inputs (rule R92) -/

/-- The line of script with other dimensions on the ports. -/
abbrev withDimensions (w h : Nat) (i : Inputs) : Inputs := { i with widthIn := w, heightIn := h }

/-- Where `rst` or the running frame goes before `start`, or `start` is not asserted, the operation does not depend on
the dimension inputs: START is the last but one in the priority of rule R76. -/
theorem decode_withDimensions {s : State} {i : Inputs} (w h : Nat) (rest : List Inputs)
    (hns : i.rst = true ∨ s.state = .run ∨ i.start = false) :
    decode (stepWord (withLine (withDimensions w h i) rest s)) = decode (stepWord (withLine i rest s)) := by
  have hpix : pixData (withLine (withDimensions w h i) rest s) = pixData (withLine i rest s) :=
    pixData_withLine_congr rfl rest s
  have hbusy (j : Inputs) : busy (withLine j rest s) = busy s := rfl
  rw [decode_stepWord, decode_stepWord, hpix, hbusy, hbusy, sample_of_script rfl, sample_of_script rfl]
  rcases hns with hr | hrun | hstart
  · rw [if_pos hr, if_pos hr]
  · rw [if_pos ((busy_iff s).mpr hrun), if_pos ((busy_iff s).mpr hrun)]
  · simp only [hstart, Bool.false_eq_true, if_false]

/-- Outside START the whole step is the same for any dimensions on the ports. -/
theorem step_withDimensions {s : State} {i : Inputs} (w h : Nat) (rest : List Inputs)
    (hns : i.rst = true ∨ s.state = .run ∨ i.start = false) :
    step (withLine (withDimensions w h i) rest s) = step (withLine i rest s) := by
  have hsampled : sampled (withLine (withDimensions w h i) rest s) = sampled (withLine i rest s) :=
    sampled_withLine_congr rfl rest s
  rw [step, step, decode_withDimensions w h rest hns, hsampled]

end Sys2Proof.Machine

/-! ### The obligations -/

namespace Sys2Proof.Proofs

open Sys2Proof.Machine

/-- Settles O7: RESET gives the reset values, and RESET of a block that has them changes nothing. -/
theorem resetGivesTheResetValues : Obligations.ResetGivesTheResetValues := by
  refine ⟨fun s => ?_, fun s hr => ?_⟩
  · obtain ⟨t, hexec, hvalues, hresult⟩ := exec_reset_resetValues s
    exact ⟨t, hexec, hvalues, exec_sameEnvironment hexec, hresult, exec_reset_of_resetValues hvalues⟩
  · obtain ⟨t, hexec, hvalues, _⟩ := exec_reset_resetValues (sampled s)
    exact ⟨t, (step_eq_exec_reset hr).trans hexec, hvalues, ports_invalid_of_rst hr⟩

/-- Settles O13: the control vector decides before the dimensions are read, a STEP keeps the registers, and START loads
them from the ports. -/
theorem dimensionsSampledAtStartOnly : Obligations.DimensionsSampledAtStartOnly := by
  refine ⟨fun s i w h rest hns => (step_withDimensions w h rest hns).symm, fun s t hrun hr hstep => ?_,
    fun s hidle hr hstart => ⟨_, step_of_start hr hidle hstart, rfl, rfl⟩⟩
  obtain rfl := Host.Outcome.next.inj ((step_of_run hr hrun).symm.trans hstep)
  exact ⟨stepped_width _ _, stepped_height _ _⟩

end Sys2Proof.Proofs
end

section
/-! ## Words placed for the coming step, written out from the table, and chunks without a byte (log entries 7, 8, 11) -/

/-! ### A word on the wires of the coming step (log entry 11) -/

namespace Sys2Proof

/-- A number that decodes has a wire for each of its bits, and its wires ask for the operation (rule R45). -/
theorem decode_ofBits_of_decodeBits {n w : Nat} {i : Instr} (h : decodeBits n w = .ok i) :
    decode (StepWord.ofBits n w) = i := by
  unfold decodeBits at h
  split at h
  · exact Except.ok.inj h
  · exact absurd h nofun

end Sys2Proof

namespace Sys2Proof.Machine

@[simp] theorem placeWord_dimBits (w : StepWord) (s : State) : (placeWord w s).dimBits = s.dimBits := rfl

@[simp] theorem placeWord_script_tail (w : StepWord) (s : State) : (placeWord w s).script.tail = s.script := rfl

/-- The coming step samples the line that was put in front of the script. -/
@[simp] theorem sample_placeWord (w : StepWord) (s : State) :
    sample (placeWord w s) = ⟨w.ctl.getLsbD 2, w.ctl.getLsbD 1, w.widthIn, w.heightIn, none⟩ := rfl

/-- The run flag is as bit 0 of the control vector says. -/
@[simp] theorem busy_placeWord (w : StepWord) (s : State) : busy (placeWord w s) = w.ctl.getLsbD 0 := by
  rw [busy, placeWord]
  cases w.ctl.getLsbD 0 <;> rfl

/-- A step that queries a pixel is answered with the word's pixel, which was put at the scan position. -/
theorem pixData_placeWord {w : StepWord} (hrun : w.ctl.getLsbD 0 = true) (s : State) :
    pixData (placeWord w s) = w.pixData := by
  have himg : sourceImage (placeWord w s) = imgSet s.img (s.y, s.x) w.pixData := if_pos hrun
  have hget : imgGet (sourceImage (placeWord w s)) (s.y, s.x) = some w.pixData := himg ▸ imgGet_imgSet_same _ _ _
  exact congrArg (Option.getD · _) hget

/-- The coming step performs what the placed wires ask for, if the dimensions fit their ports. -/
theorem decode_stepWord_placeWord {w : StepWord} {s : State} (h : w.fits s.dimBits) :
    decode (stepWord (placeWord w s)) = decode w := by
  obtain ⟨hwidth, hheight⟩ := h
  rw [decode_stepWord, sample_placeWord, busy_placeWord, placeWord_dimBits, fit_of_lt hwidth, fit_of_lt hheight]
  cases hrun : w.ctl.getLsbD 0 with
  | true => rw [pixData_placeWord hrun, decode, hrun]
  | false => rw [decode, hrun]; rfl

/-! ### A chunk outside the domain of PACKCHUNK (log entry 7) -/

theorem exec_packchunk_of_outside {bits : List Bool} (h : bits.length = 0 ∨ 9 ≤ bits.length) (s : State) :
    exec (.packchunk bits) s = .refused (.chunkLength bits.length) := by
  have hout : ¬ chunkLengthOk bits = true := fun hok => by
    obtain ⟨hlo, hhi⟩ : 1 ≤ bits.length ∧ bits.length ≤ 8 := of_decide_eq_true hok
    omega
  rw [exec_packchunk, if_neg hout]

end Sys2Proof.Machine

/-! ### The obligations -/

namespace Sys2Proof.Proofs

open Sys2Proof.Machine

/-- Settles O3: the wires read out of a word fit their ports, so the coming step decodes to the placed operation. -/
theorem placedWordIsTheNextInstruction : Obligations.PlacedWordIsTheNextInstruction := by
  intro s nbits w i hdec
  refine ⟨?_, placeWord_script_tail (StepWord.ofBits s.dimBits (w % 2 ^ nbits)) s⟩
  rw [step, State.withFetchWord, decode_stepWord_placeWord (StepWord.ofBits_fits _ _), decode_ofBits_of_decodeBits hdec]

/-- Settles O4: each number is the wires of one row of rule R45's table. -/
theorem specWordsDecode : Obligations.SpecWordsDecode :=
  ⟨decodeBits_toBits (s := ⟨0b100#3, 0, 0, 0⟩) ⟨by decide, by decide⟩,
    decodeBits_toBits (s := ⟨0b111#3, 0, 0, 0⟩) ⟨by decide, by decide⟩,
    decodeBits_toBits (s := ⟨0b010#3, 10, 2, 0⟩) ⟨by decide, by decide⟩,
    decodeBits_toBits (s := ⟨0b001#3, 0, 0, 0x123456FF#32⟩) ⟨by decide, by decide⟩,
    decodeBits_toBits (s := ⟨0b011#3, 0, 0, 0xFF0000FE#32⟩) ⟨by decide, by decide⟩,
    decodeBits_toBits (s := ⟨0b000#3, 0, 0, 0⟩) ⟨by decide, by decide⟩⟩

/-- Settles O21: PACKCHUNK tests the count of bits first. -/
theorem chunkOutsideItsDomainIsRefused : Obligations.ChunkOutsideItsDomainIsRefused :=
  fun _ s h => exec_packchunk_of_outside h s

end Sys2Proof.Proofs
end
